-- ==== Sys2Proof/Word.lean ====
section
/-! DEFINITION. The word types of LSBSTEG (spec/00_scope.md section 4, R8, R10, R12, R14, R116): the widths the
spec gives its data. All values are unsigned. -/

namespace Sys2Proof

/-- One bit, 0 or 1 (`false` is 0, `true` is 1): the 1-bit port of R116. -/
abbrev Bit := Bool

/-- A channel value or a message byte: 8 bits, 0..255 (R8). -/
abbrev Byte := BitVec 8

/-- A grid dimension or coordinate: 16 bits (R12, R37, R38). -/
abbrev Half := BitVec 16

/-- A message length, a capacity, a message index, a register datum: 32 bits (R10, R21). -/
abbrev Word := BitVec 32

/-- An MSB-index of a bit in its byte, 0 = most significant: 3 bits (R14, R116). -/
abbrev BitIdx := BitVec 3

/-- A channel number: 0 R, 1 G, 2 B, 3 A, 2 bits (R8, R61). -/
abbrev Chan := BitVec 2

end Sys2Proof
end

