-- ==== Sys2Proof/Syntax.lean ====
section
/-! DEFINITION. The instruction set: the three commands of spec/opcode_table.json. A command has no operand fields (R90):
it takes its operands from fixed registers and memories (R94). -/

namespace Sys2Proof

/-- A command of the block, one constructor per row of spec/opcode_table.json. -/
inductive Instr where
  /-- CAP: compute the capacity of the grid (R91, R132). -/
  | cap
  /-- ENC: embed the framed message into the carrier bits (R92, R170). -/
  | enc
  /-- DEC: read the header and the message out of the carrier bits (R93, R190). -/
  | dec
deriving DecidableEq, Repr

end Sys2Proof
end

