-- ==== Sys2Proof/WellFormed.lean ====
section
/-! DEFINITION. Well-formedness of what the decoder reads. A command has no fields, so every command is well formed; the
one check there is concerns the command byte: the whole byte is the opcode and three values of it spell a command
(R90, R95). -/

namespace Sys2Proof

/-- Every command is well formed: there is no register field, immediate or mode bit to check (R90). -/
def Instr.wellFormed (i : Instr) : Bool :=
  match i with
  | .cap => true
  | .enc => true
  | .dec => true

/-- The command byte spells a command: 0x01, 0x02 or 0x03; 0x00 and 0x04 to 0xFF are illegal (R95). -/
def commandByteLegal (op : Byte) : Bool :=
  op == 0x01 || op == 0x02 || op == 0x03

end Sys2Proof
end

