-- ==== Sys2Proof/Decode.lean ====
section
/-! DEFINITION. The decoder, total on all 256 command bytes (R95), and after it the encoder, both written from the opcode
map of spec/30_encoding.md section 2 (R90 to R93). -/

namespace Sys2Proof

/-- Why a command byte is no command. -/
inductive DecodeError where
  /-- One of the 253 illegal codes 0x00, 0x04 to 0xFF (R95); a launch with it raises IllegalCommand. -/
  | illegalCommand (op : Byte)
deriving DecidableEq, Repr

/-- One row of the opcode map: `op` AND `mask` = `pattern` spells `instr`. -/
structure OpcodeRow where
  mask : Byte
  pattern : Byte
  instr : Instr
deriving DecidableEq, Repr

/-- The opcode map: one format, no field but `op` (R90); match and mask of R91, R92 and R93. -/
def opcodeRows : List OpcodeRow :=
  [ { mask := 0xFF, pattern := 0x01, instr := .cap },
    { mask := 0xFF, pattern := 0x02, instr := .enc },
    { mask := 0xFF, pattern := 0x03, instr := .dec } ]

/-- A row matches a command byte. -/
def OpcodeRow.fits (r : OpcodeRow) (op : Byte) : Bool :=
  op &&& r.mask == r.pattern

/-- The command a byte written to CMD[7:0] spells, or the name of the refusal (R91 to R93, R95). -/
def decode (op : Byte) : Except DecodeError Instr :=
  match opcodeRows.find? (fun r => r.fits op) with
  | some r => .ok r.instr
  | none => .error (.illegalCommand op)

/-- The code of a command, written from the opcode map (R91 to R93). -/
def encode (i : Instr) : Byte :=
  match i with
  | .cap => 0x01
  | .enc => 0x02
  | .dec => 0x03

/-- The command byte of a 32-bit value written to CMD: `value[7:0]`, the rest dropped (R22, R220 step 1). -/
def commandByte (v : Word) : Byte :=
  v.extractLsb' 0 8

/-- The value written to CMD for a word of the opcode table: the low `nbits` bits of `w`, every bit above them 0. -/
def tableWordValue (nbits w : Nat) : Word :=
  BitVec.ofNat 32 (w % 2 ^ nbits)

/-- What the decoder reads from an instruction of spec/opcode_table.json whose bits are `w`; the table's words are one
byte long, so the host stores nothing: the byte is the value written to CMD (R90, R220). -/
def decodeTableWord (nbits w : Nat) : Option Instr :=
  match decode (commandByte (tableWordValue nbits w)) with
  | .ok i => some i
  | .error _ => none

end Sys2Proof
end

