-- ==== Sys2Proof/Config.lean ====
section
/-! DEFINITION. What an implementation fixes (the spec's named parameters, spec/92_eei_decisions.md) and the free
values: constants without a body, so that no proof can know what they are. -/

namespace Sys2Proof

/-- `MSGBUF_BYTES`: the number of bytes of MSG. OPEN in the spec with default 2^32, the value taken here
(R33, 92_eei_decisions.md D14; DESIGN CHOICE, notes/assumptions/6.md). -/
def Config.msgbufBytes : Nat := 2 ^ 32

/-- `QDEPTH`: the depth of the bit queue of the reference behaviour, 100 bits (R11, R165). No command depends on it. -/
def Config.queueDepth : Nat := 100

/-- FREE VALUE. The n-th unspecified 32-bit value a run draws: what a host read of a register without a value returns
and what MSGLEN holds after a failed DEC (R34, R203). No body: a claim holds for every value of it
(notes/assumptions/3.md). -/
opaque Config.freeWord : Nat → Word

/-- FREE VALUE. The n-th unspecified byte a run draws: what a host read of a PIX or MSG byte without a value, or of a
pixel out of bounds, returns (R34, R243). No body (notes/assumptions/3.md). -/
opaque Config.freeByte : Nat → Byte

end Sys2Proof
end

