-- ==== Sys2Proof/Machine/State.lean ====
section
/-! DEFINITION. The state of LSBSTEG as plain data: the seven host-visible registers, the nine sequencer registers and the
two memories of R20, and beside them the host's side of the boundary (R98, R227) and the counter of free values. -/

namespace Sys2Proof.Machine

/-- STATUS (R23). -/
inductive Status where
  /-- 0: no command has run since reset. -/
  | idle
  /-- 1: a command is running; the engine owns the memories. -/
  | busy
  /-- 2: the last command completed without error. -/
  | done
  /-- 3: the last command ended with an error, named by ERR. -/
  | fail
deriving DecidableEq, Repr

/-- ERR (R24, R240). The codes 5 to 7 are never written, so they have no constructor. -/
inductive ErrCode where
  /-- 0: no error. -/
  | none
  /-- 1: ENC, the framed message is not admitted (R241). -/
  | capacityExceeded
  /-- 2: DEC, no room for a header or the payload runs past the grid (R242). -/
  | malformedCarrier
  /-- 3: a pixel access out of bounds (R243). -/
  | gridBounds
  /-- 4: a launch with an illegal code (R244). -/
  | illegalCommand
deriving DecidableEq, Repr

/-- PHASE (R36). -/
inductive Phase where
  /-- 0: no command is running. -/
  | idle
  /-- 1: ENC is writing bits. -/
  | encRun
  /-- 2: DEC is in the state ReadingHeader. -/
  | decHdr
  /-- 3: DEC is in the state ReadingPayload. -/
  | decPay
deriving DecidableEq, Repr

/-- A data register: its contents, and whether it holds a value. `held = false` is the spec's own state "holds no value"
(R34): the register then still has contents, which no command reads (R228) and no host read shows. -/
structure Reg (w : Nat) where
  val : BitVec w
  held : Bool
deriving DecidableEq, Repr

/-- HDR, four bytes, HDR[0] first (R44). -/
structure Header where
  b0 : Byte
  b1 : Byte
  b2 : Byte
  b3 : Byte
deriving DecidableEq, Repr

/-- A memory: the bytes that hold a value, by address, addresses strictly rising. An address not listed holds no value
(R34, `Memory.read`). -/
abbrev Memory := List Host.Cell

/-- One line of a host script (R98) or one move of R227: what the host does next. -/
inductive HostLine where
  /-- `WR n, v`: write register number n. A write of CMD (n = 0) runs its command to completion as one step (R223). -/
  | wr (n : Byte) (v : Word)
  /-- `WR CMD, v` seen at the granularity of micro-steps (R223): the launch alone; the micro-steps are the next steps. -/
  | launch (v : Word)
  /-- `RD n`: read register number n. -/
  | rd (n : Byte)
  /-- `PIXW x, y, c, v`. -/
  | pixw (x y : Half) (c : Chan) (v : Byte)
  /-- `PIXR x, y, c`. -/
  | pixr (x y : Half) (c : Chan)
  /-- `MSGW i, v`. -/
  | msgw (i : Word) (v : Byte)
  /-- `MSGR i`. -/
  | msgr (i : Word)
  /-- `WAIT`: repeat `RD STATUS` until the value is not BUSY. -/
  | wait
  /-- The host makes no move for one step: the engine, if it is BUSY, makes one micro-step. -/
  | idle
  /-- The reset event from outside the register interface (R227, R270). -/
  | reset
deriving DecidableEq, Repr

/-- The machine. The first seven groups are the spec's state (R20); the last three fields are the model's own. -/
structure State where
  /-- STATUS (R23). CMD, register 0, stores nothing (R22). -/
  status : Status
  /-- ERR (R24). -/
  err : ErrCode
  /-- WIDTH (R25). -/
  width : Reg 16
  /-- HEIGHT (R26). -/
  height : Reg 16
  /-- MSGLEN (R27). -/
  msglen : Reg 32
  /-- CAPACITY (R28). -/
  capacity : Reg 32
  /-- PHASE (R36). -/
  phase : Phase
  /-- CX (R37). -/
  cx : Half
  /-- CY (R38). -/
  cy : Half
  /-- CH (R39). -/
  ch : Chan
  /-- BYTEIDX (R40). -/
  byteIdx : Word
  /-- BITIDX (R41). -/
  bitIdx : BitIdx
  /-- RBYTE (R43). -/
  rbyte : Byte
  /-- HDR (R44). -/
  hdr : Header
  /-- EOS (R45). -/
  eos : Bool
  /-- PIX (R32): the channel bytes that hold a value, at the model's own key of (x, y, c). -/
  pix : Memory
  /-- MSG (R33): the message bytes that hold a value, by index. -/
  msg : Memory
  /-- MODEL'S OWN: the lines of the host's script still to come (R98). -/
  script : List HostLine
  /-- MODEL'S OWN: what the host's latest move got back (R227); none where it gets nothing. -/
  reply : Option Word
  /-- MODEL'S OWN: how many free values the run has drawn (R34, R203). -/
  draws : Nat
deriving DecidableEq, Repr

/-- Why the machine stops. The errors of the spec (R240) are no stops: they are recorded in STATUS and ERR and the block
goes on. -/
inductive Fault where
  /-- Raised by the engine's turn when STATUS is BUSY and PHASE is IDLE, which R36 excludes: no micro-step exists. Safe:
  the model stops in a state no run reaches. -/
  | busyWithoutPhase
  /-- Raised by the engine's turn when CH is 3 (alpha), which R39 excludes: no micro-step exists. Safe, as above. -/
  | alphaSelected
deriving DecidableEq, Repr

/-- What the spec gives no meaning. All are safe: the model stops where a chip may go on. -/
inductive Refusal where
  /-- An instruction exec has no meaning for yet. Raised by no arm of this model. -/
  | notModelled (mnemonic : String)
  /-- Raised by a launch while an operand register of the command holds no value (R34, R231). The spec orders it: "the launch is
  refused" (R220 step 4), "is refused: the spec gives it no result" (R228), R272 (a) and (c), U4, D11, V79. -/
  | unwrittenRegister
  /-- Raised by a launch while a byte of PIX or MSG that is an operand of the command holds no value (R34, R94, R231). The spec
  orders it: R228, R272 (b) and (d), U4, D11, V80. -/
  | unwrittenByte
  /-- Raised by a host move other than a read of STATUS, a wait or a reset while STATUS is BUSY (R226). -/
  | hostMoveWhileBusy
  /-- Raised by a host PIX access while WIDTH or HEIGHT holds no value. The spec orders it: "a host PIX access made then is
  refused" (R61), U6. -/
  | gridWithoutDimensions
  /-- Raised where a message index or length lies beyond `MSGBUF_BYTES` (R33, R67). -/
  | beyondMessageBuffer
deriving DecidableEq, Repr

/-- The machine right after reset (R50, R270). The registers and bytes the spec leaves without a value hold none
(`held = false`, memories with nothing listed); the contents 0 behind `held = false`, and of RBYTE and HDR, are a DESIGN
CHOICE (notes/assumptions/1.md). The model's own fields start empty (notes/assumptions/3.md and 4.md). -/
def State.reset : State where
  status := .idle
  err := .none
  width := { val := 0, held := false }
  height := { val := 0, held := false }
  msglen := { val := 0, held := false }
  capacity := { val := 0, held := false }
  phase := .idle
  cx := 0
  cy := 0
  ch := 0
  byteIdx := 0
  bitIdx := 0
  rbyte := 0
  hdr := { b0 := 0, b1 := 0, b2 := 0, b3 := 0 }
  eos := false
  pix := []
  msg := []
  script := []
  reply := none
  draws := 0

end Sys2Proof.Machine
end

