-- ==== Sys2Proof/Machine/Flags.lean ====
section
/-! DEFINITION. The codes of the status bits (R23, R24, R36) and the one flag, EOS (R31, R45). The block has no arithmetic
flags or condition codes (R31). -/

namespace Sys2Proof.Machine

/-- The value of STATUS (R23). -/
def statusCode (s : Status) : BitVec 2 :=
  match s with
  | .idle => 0
  | .busy => 1
  | .done => 2
  | .fail => 3

/-- The value of ERR (R24, R240). -/
def errCode (e : ErrCode) : BitVec 3 :=
  match e with
  | .none => 0
  | .capacityExceeded => 1
  | .malformedCarrier => 2
  | .gridBounds => 3
  | .illegalCommand => 4

/-- The value of PHASE (R36). -/
def phaseCode (p : Phase) : BitVec 2 :=
  match p with
  | .idle => 0
  | .encRun => 1
  | .decHdr => 2
  | .decPay => 3

/-- EOS for a cursor in a framed message of length L: 1 exactly when BYTEIDX = 4 + L, the sum exact (R45, R13). -/
def endOfStream (byteIdx : Word) (len : Word) : Bool :=
  byteIdx.toNat == len.toNat + 4

end Sys2Proof.Machine
end

