-- ==== Sys2Proof/Machine/Traversal.lean ====
section
/-! DEFINITION. The traversal of the grid and the R/G/B carousel (spec/43_pixel_grid_traversal.md): columns outer, rows
inner (R142), channels R, G, B (R146). All arithmetic exact (R13). -/

namespace Sys2Proof.Machine

/-- `pixelOf(t)` on a grid of height h: `(t div h, t mod h)` (R143). -/
def pixelOf (h t : Nat) : Nat × Nat :=
  (t / h, t % h)

/-- Where the carousel stands: column, row, channel. -/
structure Place where
  x : Nat
  y : Nat
  c : Nat
deriving DecidableEq, Repr

/-- The place of carrier bit k on a grid of height h: pixel `k div 3` of the traversal, channel `k mod 3` (R145). -/
def carrierPlace (h k : Nat) : Place where
  x := (pixelOf h (k / 3)).1
  y := (pixelOf h (k / 3)).2
  c := k % 3

/-- The pixel advance (R144): `CY <- CY + 1; if CY == H: CY <- 0; CX <- CX + 1`. -/
def advancePixel (h : Nat) (x y : Nat) : Nat × Nat :=
  if y + 1 = h then (x + 1, 0) else (x, y + 1)

/-- The carousel advance after a bit is moved (R146): `CH <- CH + 1; if CH == 3: CH <- 0` and advance the pixel. -/
def advanceCarousel (h : Nat) (p : Place) : Place :=
  if p.c + 1 = 3 then
    { x := (advancePixel h p.x p.y).1, y := (advancePixel h p.x p.y).2, c := 0 }
  else
    { p with c := p.c + 1 }

end Sys2Proof.Machine
end

