-- ==== Sys2Proof/Machine/WordFramer.lean ====
section
/-! DEFINITION. WordFramer (spec/41_word_framer.md): the length as four bytes, most significant byte first (R68). -/

namespace Sys2Proof.Machine

/-- `splitToBytes` (R120): `length[31:24]`, `length[23:16]`, `length[15:8]`, `length[7:0]`. -/
def splitToBytes (n : Word) : Header where
  b0 := n.extractLsb' 24 8
  b1 := n.extractLsb' 16 8
  b2 := n.extractLsb' 8 8
  b3 := n.extractLsb' 0 8

/-- `combineToInt` (R121): each byte zero-extended, then `(b0 << 24) OR (b1 << 16) OR (b2 << 8) OR b3`. -/
def combineToInt (h : Header) : Word :=
  (h.b0.setWidth 32 <<< 24) ||| (h.b1.setWidth 32 <<< 16) ||| (h.b2.setWidth 32 <<< 8) ||| h.b3.setWidth 32

/-- `HDR[j]` for 0 ≤ j ≤ 3 (R44); no caller passes another j. -/
def headerByte (h : Header) (j : Nat) : Byte :=
  match j with
  | 0 => h.b0
  | 1 => h.b1
  | 2 => h.b2
  | _ => h.b3

/-- `HDR[j] <- v` for 0 ≤ j ≤ 3 (R44, R201); no caller passes another j. -/
def setHeaderByte (h : Header) (j : Nat) (v : Byte) : Header :=
  match j with
  | 0 => { h with b0 := v }
  | 1 => { h with b1 := v }
  | 2 => { h with b2 := v }
  | _ => { h with b3 := v }

end Sys2Proof.Machine
end

