-- ==== Sys2Proof/Machine/Ops.lean ====
section
/-! DEFINITION. The named operations over memories and registers: reading and writing a byte, the bounds check of a pixel
access (R61, R65), `raise` (R246), the launch and completion of a command (R220, R222), the sequencer position (R35,
R42). -/

namespace Sys2Proof.Machine

/-! ## Memory -/

/-- The byte at an address, or none where the address holds no value: what an unlisted address reads as (R34,
notes/assumptions/2.md). -/
def Memory.read (m : Memory) (a : Nat) : Option Byte :=
  match m with
  | [] => none
  | (b, v) :: rest => if a = b then some v else Memory.read rest a

/-- Store a byte; no other byte changes (R64, R67). Keeps the addresses strictly rising. -/
def Memory.write (m : Memory) (a : Nat) (v : Byte) : Memory :=
  match m with
  | [] => [(a, v)]
  | (b, w) :: rest =>
    if a < b then (a, v) :: (b, w) :: rest
    else if a = b then (a, v) :: rest
    else (b, w) :: Memory.write rest a v

/-- Every address of `m` is above `a`. -/
def Memory.above (m : Memory) (a : Nat) : Bool :=
  m.all (fun cell => decide (a < cell.1))

/-- The canonical form: addresses strictly rising. An unlisted address holds no value, so there is no byte that an entry
may not hold. -/
def Memory.wf (m : Memory) : Bool :=
  match m with
  | [] => true
  | (a, _) :: rest => Memory.above rest a && Memory.wf rest

/-! ## PIX (R61 to R65) -/

/-- The key under which PIX holds channel c of pixel (x, y). The spec architects no linear layout (R62); this key is the
model's own, injective for 16-bit x and y and 2-bit c, and no claim rests on it (notes/assumptions/5.md). -/
def pixKey (x y c : Nat) : Nat :=
  (x * 65536 + y) * 4 + c

/-- W, H and L as numbers (R13). -/
def State.w (s : State) : Nat := s.width.val.toNat
def State.h (s : State) : Nat := s.height.val.toNat
def State.len (s : State) : Nat := s.msglen.val.toNat

/-- The number of carrier bits of the grid, 3·W·H (R145). -/
def State.carriers (s : State) : Nat := 3 * s.w * s.h

/-- WIDTH and HEIGHT hold values. -/
def State.gridHeld (s : State) : Bool := s.width.held && s.height.held

/-- The bounds check: (x, y) is a pixel of the grid (R61). -/
def State.inGrid (s : State) (x y : Nat) : Bool := decide (x < s.w) && decide (y < s.h)

/-- The channel byte at an address of the grid, or none where it holds no value (R63). Out of bounds there is no byte:
callers make the bounds check first. -/
def State.pixByte (s : State) (x y c : Nat) : Option Byte :=
  if s.inGrid x y then Memory.read s.pix (pixKey x y c) else none

/-- Store a channel byte (R64). Callers make the bounds check first. -/
def State.pixStore (s : State) (x y c : Nat) (v : Byte) : State :=
  { s with pix := Memory.write s.pix (pixKey x y c) v }

/-! ## MSG (R66, R67) -/

/-- The message byte at an index, or none where it holds no value (R66). -/
def State.msgByte (s : State) (i : Nat) : Option Byte := Memory.read s.msg i

/-- Store a message byte (R67). -/
def State.msgStore (s : State) (i : Nat) (v : Byte) : State :=
  { s with msg := Memory.write s.msg i v }

/-! ## Errors, launch and completion -/

/-- `raise E` (R246): ERR and STATUS record the error and PHASE returns to IDLE; nothing is saved anywhere else and control
goes nowhere. There is no return from an error (R249). -/
def State.raise (s : State) (e : ErrCode) : State :=
  { s with err := e, status := .fail, phase := .idle }

/-- Step 2 of a launch (R220): STATUS is BUSY and the previous command's error is gone. -/
def State.begin (s : State) : State :=
  { s with status := .busy, err := .none }

/-- Completion without error (R222): STATUS is DONE and PHASE returns to IDLE with it. -/
def State.complete (s : State) : State :=
  { s with status := .done, phase := .idle }

/-- A DEC that fails (R203): `raise MalformedCarrier`, and MSGLEN and every byte of MSG hold unspecified values. MSGLEN
takes a free value and holds no value, MSG holds no values, so that each host read of them is a draw of its own (R34). -/
def State.failDecode (s : State) : State :=
  { s.raise .malformedCarrier with
    msglen := { val := Config.freeWord s.draws, held := false }
    msg := []
    draws := s.draws + 1 }

/-! ## The sequencer position (R35, R42) -/

/-- The sequencer registers of a command that has moved k bits (R42): BYTEIDX = k div 8, BITIDX = k mod 8, CH = k mod 3,
(CX, CY) = pixelOf(k div 3), which is (W, 0) at the end of the grid. -/
def State.atBit (s : State) (k : Nat) : State :=
  { s with
    cx := BitVec.ofNat 16 (carrierPlace s.h k).x
    cy := BitVec.ofNat 16 (carrierPlace s.h k).y
    ch := BitVec.ofNat 2 (carrierPlace s.h k).c
    byteIdx := BitVec.ofNat 32 (k / 8)
    bitIdx := BitVec.ofNat 3 (k % 8) }

/-- The advance after every bit moved (R178, R201): BITIDX and, from 7 to 0, BYTEIDX; the carousel and, from B to R, the
pixel. -/
def State.advance (s : State) : State :=
  let p := advanceCarousel s.h { x := s.cx.toNat, y := s.cy.toNat, c := s.ch.toNat }
  { s with
    bitIdx := s.bitIdx + 1
    byteIdx := if s.bitIdx + 1 = 0 then s.byteIdx + 1 else s.byteIdx
    cx := BitVec.ofNat 16 p.x
    cy := BitVec.ofNat 16 p.y
    ch := BitVec.ofNat 2 p.c }

end Sys2Proof.Machine
end

