-- ==== Sys2Proof/Machine/Capacity.lean ====
section
/-! DEFINITION. CapacityCalculator and the command CAP (spec/42_capacity.md). -/

namespace Sys2Proof.Machine

/-- `maxEncodeSize` (R131): with Q = ⌊3·W·H/8⌋ exact, 0 where Q < 8 and Q − 4 where Q ≥ 8. -/
def maxEncodeSize (w h : Nat) : Nat :=
  let q := 3 * w * h / 8
  if q < 8 then 0 else q - 4

/-- CAP (R132): CAPACITY takes `maxEncodeSize(WIDTH, HEIGHT)`; refused while WIDTH or HEIGHT holds no value, as R132,
R228, R272 (a) and V79 order. -/
def execCap (s : State) : Host.Outcome State Fault Refusal :=
  if s.gridHeld then
    .next { s.begin.complete with capacity := { val := BitVec.ofNat 32 (maxEncodeSize s.w s.h), held := true } }
  else .refused .unwrittenRegister

end Sys2Proof.Machine
end

