-- ==== Sys2Proof/Machine/BitAccessor.lean ====
section
/-! DEFINITION. BitAccessor (spec/40_bit_accessor.md): the four combinational bit functions. Indices are MSB-indices
(R14). -/

namespace Sys2Proof.Machine

/-- The mask of MSB-index i, `0x80 >> i` (R14). -/
def bitMask (i : BitIdx) : Byte :=
  0x80#8 >>> i.toNat

/-- `getBit` (R110): bit `v[7 - i]`. -/
def getBit (v : Byte) (i : BitIdx) : Bit :=
  v.getLsbD (7 - i.toNat)

/-- `setBit` (R111): `(v AND (0xFF XOR m)) OR (b * m)`. -/
def setBit (v : Byte) (i : BitIdx) (b : Bit) : Byte :=
  (v &&& (0xFF#8 ^^^ bitMask i)) ||| (if b then bitMask i else 0)

/-- `getLSB` (R112): `v[0]`. -/
def getLSB (v : Byte) : Bit :=
  v.getLsbD 0

/-- `setLSB` (R113): `(v AND 0xFE) OR b`. -/
def setLSB (v : Byte) (b : Bit) : Byte :=
  (v &&& 0xFE#8) ||| (if b then 1 else 0)

end Sys2Proof.Machine
end

