-- ==== Sys2Proof/Machine/Operands.lean ====
section
/-! DEFINITION. What the commands take as operands (R94, R96, R97): the framed message (R172) and the carrier bits and bytes
of the grid (R191, R192). Each is none where a byte it reads holds no value, which makes the launch refused (R228). The
operands in PIX are whole pixels (R94, R231). -/

namespace Sys2Proof.Machine

/-- The channel byte that carrier bit k lies in (R145). -/
def State.carrier (s : State) (k : Nat) : Option Byte :=
  s.pixByte (carrierPlace s.h k).x (carrierPlace s.h k).y (carrierPlace s.h k).c

/-- `carrierBit(k)` (R191). -/
def State.carrierBit (s : State) (k : Nat) : Option Bit :=
  (s.carrier k).map getLSB

/-- The first n bits of carrier byte j put in at MSB-index 0, 1, ..., n - 1 in turn (R96, R192). -/
def State.assemble (s : State) (j : Nat) : Nat → Option Byte
  | 0 => some 0
  | n + 1 =>
    match s.assemble j n, s.carrierBit (8 * j + n) with
    | some r, some b => some (setBit r (BitVec.ofNat 3 n) b)
    | _, _ => none

/-- `carrierByte(j)` (R192). -/
def State.carrierByte (s : State) (j : Nat) : Option Byte :=
  s.assemble j 8

/-- The four header bytes a DEC reads (R193). -/
def State.carrierHeader (s : State) : Option Header :=
  match s.carrierByte 0, s.carrierByte 1, s.carrierByte 2, s.carrierByte 3 with
  | some b0, some b1, some b2, some b3 => some { b0 := b0, b1 := b1, b2 := b2, b3 := b3 }
  | _, _, _, _ => none

/-- Byte j of the framed message `splitToBytes(L) ++ MSG[0 .. L-1]` (R166, R172). -/
def State.framedByte (s : State) (j : Nat) : Option Byte :=
  if j < 4 then some (headerByte (splitToBytes s.msglen.val) j) else s.msgByte (j - 4)

/-- `framedBit(k)` (R172). -/
def State.framedBit (s : State) (k : Nat) : Option Bit :=
  (s.framedByte (k / 8)).map (fun v => getBit v (BitVec.ofNat 3 (k % 8)))

/-- The number of R, G and B bytes of the first ⌈n/3⌉ pixels of the traversal: the bytes of PIX that are operands of a command
which moves n bits (R94, R231, R272 (b)), the channels of the last pixel after the last bit included. -/
def pixelBytes (n : Nat) : Nat := 3 * ((n + 2) / 3)

/-- The channel bytes of carrier bits 0 to n - 1 hold values (R34). -/
def State.carriersHeld (s : State) : Nat → Bool
  | 0 => true
  | n + 1 => s.carriersHeld n && (s.carrier n).isSome

/-- N = 8·(4 + L), the number of bits of a framed message of L bytes, exact (R10, R13). -/
def framedBits (len : Nat) : Nat := 8 * (4 + len)

end Sys2Proof.Machine
end

