-- ==== Sys2Proof/Machine/Decoder.lean ====
section
/-! DEFINITION. Decoder and the command DEC (spec/46_decoder.md) from launch to completion as one transition (R200). -/

namespace Sys2Proof.Machine

/-- The header check (R194): the grid has at least 32 carrier bits. -/
def State.holdsHeader (s : State) : Bool := decide (32 ≤ s.carriers)

/-- The payload bound check (R195): 8·(4 + messageLength) ≤ 3·W·H, exact. -/
def State.holdsFramed (s : State) (len : Nat) : Bool := decide (framedBits len ≤ s.carriers)

/-- Message bytes 0 to n - 1 stored in order: `MSG[j] <- carrierByte(4 + j)` (R196, R197). None where a carrier byte holds
no value. -/
def State.extract (s : State) : Nat → Option State
  | 0 => some s
  | n + 1 =>
    match s.extract n, s.carrierByte (4 + n) with
    | some t, some v => some (t.msgStore n v)
    | _, _ => none

/-- The sequencer registers of a DEC that has assembled the header and `n` payload bytes, the last of which is `r`
(R42 to R44). -/
def State.decodedTo (s : State) (h : Header) (n : Nat) (r : Byte) : State :=
  { s.atBit (framedBits n) with hdr := h, rbyte := r }

/-- The completion of a DEC with header `h` whose message is in MSG: DONE, and MSGLEN takes the length (R197). -/
def State.decoded (s : State) (h : Header) (r : Byte) : State :=
  { (s.begin.decodedTo h (combineToInt h).toNat r).complete with
    msglen := { val := combineToInt h, held := true } }

/-- DEC (R190, R200): refused while WIDTH or HEIGHT holds no value (R228, R220 step 4, R272 (a)); MalformedCarrier where
the grid has no room for a header (R194) or for the framed message the header announces (R195); refused where a byte of
PIX that is an operand holds no value (R228, R94, R231, R272 (b)): those of the header's eleven pixels, and where the
message fits those of its pixels; else MSGLEN and MSG[0 .. len-1] take the message and PIX, WIDTH, HEIGHT and CAPACITY are
unchanged. -/
def execDec (s : State) : Host.Outcome State Fault Refusal :=
  if s.gridHeld = false then .refused .unwrittenRegister
  else if s.holdsHeader = false then .next s.begin.failDecode
  else if s.carriersHeld (pixelBytes 32) = false then .refused .unwrittenByte
  else
    match s.carrierHeader with
    | none => .refused .unwrittenByte
    | some h =>
      let len := combineToInt h
      if Config.msgbufBytes < len.toNat then .refused .beyondMessageBuffer
      else if s.holdsFramed len.toNat = false then .next (s.begin.decodedTo h 0 h.b3).failDecode
      else if s.carriersHeld (pixelBytes (framedBits len.toNat)) = false then .refused .unwrittenByte
      else
        match s.extract len.toNat, s.carrierByte (3 + len.toNat) with
        | some t, some r => .next (t.decoded h r)
        | _, _ => .refused .unwrittenByte

end Sys2Proof.Machine
end

