-- ==== Sys2Proof/Machine/Encoder.lean ====
section
/-! DEFINITION. Encoder and the command ENC (spec/45_encoder.md) from launch to completion as one transition (R177). -/

namespace Sys2Proof.Machine

/-- The admission check (R171): `maxEncodeSize(WIDTH, HEIGHT) ≥ MSGLEN + 4`, the sum exact. -/
def State.admits (s : State) : Bool :=
  decide (s.len + 4 ≤ maxEncodeSize s.w s.h)

/-- Bit k of the stream goes into carrier bit k (R173), as a read-modify-write of one channel byte (R76). None where the
channel byte or the message byte holds no value. -/
def State.embedBit (s : State) (k : Nat) : Option State :=
  match s.carrier k, s.framedBit k with
  | some v, some b =>
    some (s.pixStore (carrierPlace s.h k).x (carrierPlace s.h k).y (carrierPlace s.h k).c (setLSB v b))
  | _, _ => none

/-- Bits 0 to n - 1 of the stream written in order (R173). -/
def State.embed (s : State) : Nat → Option State
  | 0 => some s
  | n + 1 =>
    match s.embed n with
    | some t => t.embedBit n
    | none => none

/-- The completion of an ENC whose bits are all embedded: DONE, and the sequencer registers as the micro-steps leave them
(R42, R44, R45, R178). -/
def State.encoded (s : State) : State :=
  { (s.begin.atBit (framedBits s.len)).complete with hdr := splitToBytes s.msglen.val, eos := true }

/-- The operand registers of ENC hold values (R231). -/
def State.encHeld (s : State) : Bool := s.gridHeld && s.msglen.held

/-- ENC (R170, R177): refused while an operand register holds no value (R228, R220 step 4, R272 (a), (c));
CapacityExceeded before any access where the message is not admitted (R171); refused where a byte of PIX or MSG that is an
operand holds no value (R228, R94, R231, R272 (b), (d)); else the first N = 8·(4 + L) carrier bits take the bits of the
framed message and nothing else of PIX changes. -/
def execEnc (s : State) : Host.Outcome State Fault Refusal :=
  if s.encHeld = false then .refused .unwrittenRegister
  else if Config.msgbufBytes < s.len then .refused .beyondMessageBuffer
  else if s.admits = false then .next (s.begin.raise .capacityExceeded)
  else if s.carriersHeld (pixelBytes (framedBits s.len)) = false then .refused .unwrittenByte
  else
    match s.embed (framedBits s.len) with
    | some t => .next t.encoded
    | none => .refused .unwrittenByte

end Sys2Proof.Machine
end

