-- ==== Sys2Proof/Machine/Sequencer.lean ====
section
/-! DEFINITION. The commands at the granularity of micro-steps: the launches that stop at the first micro-step, and the
micro-steps of ENC (R178) and DEC (R201), one carrier bit each. Nothing the host can do distinguishes this from the one
transition of execEnc and execDec (R183, R208, R223). -/

namespace Sys2Proof.Machine

/-- The cursors at the first bit and the command's first phase (R35). -/
def State.start (s : State) (p : Phase) : State :=
  { s.atBit 0 with phase := p }

/-- The registers an admitted ENC starts with (R178). -/
def State.encStart (s : State) : State :=
  { s.begin.start .encRun with hdr := splitToBytes s.msglen.val, eos := endOfStream 0 s.msglen.val }

/-- The launch of an ENC (R178). A launch whose command would read an operand without a value is refused (R228): whether
it would is asked of the command as one transition. -/
def launchEnc (s : State) : Host.Outcome State Fault Refusal :=
  match execEnc s with
  | .refused r => .refused r
  | .fault r => .fault r
  | .next _ =>
    if s.admits = false then .next (s.begin.raise .capacityExceeded)
    else .next s.encStart

/-- The launch of a DEC (R201). Refused as a launch of ENC is (R228). -/
def launchDec (s : State) : Host.Outcome State Fault Refusal :=
  match execDec s with
  | .refused r => .refused r
  | .fault r => .fault r
  | .next _ =>
    if s.holdsHeader = false then .next s.begin.failDecode
    else .next (s.begin.start .decHdr)

/-- The byte of the framed message that the ENC micro-step takes its bit from: HDR[BYTEIDX] or MSG[BYTEIDX - 4] (R178). -/
def State.streamByte (s : State) : Option Byte :=
  if s.byteIdx.toNat < 4 then some (headerByte s.hdr s.byteIdx.toNat) else s.msgByte (s.byteIdx.toNat - 4)

/-- One micro-step of ENC (R178): end of stream is tested first, else one bit goes into the current channel byte. A
pixel past the grid raises GridBounds (R147, R243); R179 says it is never reached. A byte that holds no value gives
the command no result (R34, R228); the launch was refused before that, so no run reaches this stop. -/
def encMicroStep (s : State) : Host.Outcome State Fault Refusal :=
  if endOfStream s.byteIdx s.msglen.val then .next s.complete
  else if s.inGrid s.cx.toNat s.cy.toNat = false then .next (s.raise .gridBounds)
  else
    match s.streamByte, s.pixByte s.cx.toNat s.cy.toNat s.ch.toNat with
    | some byte, some v =>
      let t := (s.pixStore s.cx.toNat s.cy.toNat s.ch.toNat (setLSB v (getBit byte s.bitIdx))).advance
      .next { t with eos := endOfStream t.byteIdx s.msglen.val }
    | _, _ => .refused .unwrittenByte

/-- What happens when RBYTE is complete (R198, R201): in the header phase it goes into HDR, and after the fourth the bound
check is made and the payload phase begins; in the payload phase it goes into MSG. `t` is the state after the advance,
`j` the index of the byte just assembled. -/
def byteAssembled (t : State) (j : Nat) : Host.Outcome State Fault Refusal :=
  if t.phase = .decHdr then
    let u := { t with hdr := setHeaderByte t.hdr j t.rbyte }
    if j + 1 = 4 then
      let len := combineToInt u.hdr
      if Config.msgbufBytes < len.toNat then .refused .beyondMessageBuffer
      else if u.holdsFramed len.toNat = false then .next u.failDecode
      else .next { u with msglen := { val := len, held := true }, phase := .decPay }
    else .next u
  else .next (t.msgStore (j - 4) t.rbyte)

/-- One micro-step of DEC (R201): the terminal condition is tested in the payload phase, else one carrier bit goes
into RBYTE at MSB-index BITIDX. A pixel past the grid raises MalformedCarrier (R147); R194 and R195 keep it from
being reached. A byte that holds no value stops it as it stops a micro-step of ENC. -/
def decMicroStep (s : State) : Host.Outcome State Fault Refusal :=
  if s.phase = .decPay ∧ s.byteIdx.toNat = s.len + 4 then .next s.complete
  else if s.inGrid s.cx.toNat s.cy.toNat = false then .next s.failDecode
  else
    match s.pixByte s.cx.toNat s.cy.toNat s.ch.toNat with
    | none => .refused .unwrittenByte
    | some v =>
      let t := { s.advance with rbyte := setBit s.rbyte s.bitIdx (getLSB v) }
      if s.bitIdx = 7 then byteAssembled t s.byteIdx.toNat else .next t

/-- The engine's turn (R35, R221): the micro-step of the running command. -/
def microStep (s : State) : Host.Outcome State Fault Refusal :=
  if s.ch = 3 then .fault .alphaSelected
  else
    match s.phase with
    | .idle => .fault .busyWithoutPhase
    | .encRun => encMicroStep s
    | .decHdr => decMicroStep s
    | .decPay => decMicroStep s

/-- n micro-steps one after another, for the statements that compare the two granularities (R183, R208, R222). -/
def microRun (s : State) : Nat → Host.Outcome State Fault Refusal
  | 0 => .next s
  | n + 1 =>
    match microStep s with
    | .next t => microRun t n
    | .fault r => .fault r
    | .refused r => .refused r

end Sys2Proof.Machine
end

