-- ==== Sys2Proof/Machine/HostPort.lean ====
section
/-! DEFINITION. The host's moves (R227): register accesses by number (R21), PIX and MSG accesses, the launch (R220), reset
(R270), and whose turn it is (R79, R226). -/

namespace Sys2Proof.Machine

/-- The registers that have a number (spec/10_state.md section 2). -/
inductive Register where
  | cmd
  | status
  | err
  | width
  | height
  | msglen
  | capacity
deriving DecidableEq, Repr

/-- The register of a number; 7 to 255 are none (R21). -/
def registerOf (n : Byte) : Option Register :=
  match n.toNat with
  | 0 => some .cmd
  | 1 => some .status
  | 2 => some .err
  | 3 => some .width
  | 4 => some .height
  | 5 => some .msglen
  | 6 => some .capacity
  | _ => none

/-- The host gets a value back. -/
def State.answer (s : State) (v : Word) : State := { s with reply := some v }

/-- A host read of a byte: its value zero-extended, or an unspecified value where it holds none (R34). -/
def State.answerByte (s : State) (v : Option Byte) : State :=
  match v with
  | some b => s.answer (b.setWidth 32)
  | none => { s.answer ((Config.freeByte s.draws).setWidth 32) with draws := s.draws + 1 }

/-- A host read of a data register: its value zero-extended to 32 bits (R21), or an unspecified value of the register's
width where it holds none (R34). -/
def State.answerReg {n : Nat} (s : State) (r : Reg n) : State :=
  if r.held then s.answer (r.val.setWidth 32)
  else { s.answer (((Config.freeWord s.draws).setWidth n).setWidth 32) with draws := s.draws + 1 }

/-- `x[n]`: read register number n (R21). CMD and the numbers without a register read 0. -/
def readRegister (s : State) (n : Byte) : State :=
  match registerOf n with
  | some .cmd => s.answer 0
  | some .status => s.answer ((statusCode s.status).setWidth 32)
  | some .err => s.answer ((errCode s.err).setWidth 32)
  | some .width => s.answerReg s.width
  | some .height => s.answerReg s.height
  | some .msglen => s.answerReg s.msglen
  | some .capacity => s.answerReg s.capacity
  | none => s.answer 0

/-- A launch with a command byte (R220): the command is run to completion by exec, or IllegalCommand is raised with nothing
else changed (R95, R244). -/
def writeCommand (s : State) (v : Word) : Host.Outcome State Fault Refusal :=
  match decode (commandByte v) with
  | .ok i => exec i s
  | .error (.illegalCommand _) => .next (s.begin.raise .illegalCommand)

/-- The launch of a command alone, its micro-steps still to come. CAP completes in its launch (R36, R132). -/
def launchOnly (i : Instr) (s : State) : Host.Outcome State Fault Refusal :=
  match i with
  | .cap => execCap s
  | .enc => launchEnc s
  | .dec => launchDec s

/-- A launch at the granularity of micro-steps (R220, R223). -/
def writeCommandPaced (s : State) (v : Word) : Host.Outcome State Fault Refusal :=
  match decode (commandByte v) with
  | .ok i => launchOnly i s
  | .error (.illegalCommand _) => .next (s.begin.raise .illegalCommand)

/-- `x[n] <- v`: write register number n (R21). WIDTH and HEIGHT keep v[15:0] and discard the grid (R30); STATUS, ERR,
CAPACITY and the numbers without a register ignore the write; CMD launches (R22). -/
def writeRegister (s : State) (n : Byte) (v : Word) : Host.Outcome State Fault Refusal :=
  match registerOf n with
  | some .cmd => writeCommand s v
  | some .status => .next s
  | some .err => .next s
  | some .width => .next { s with width := { val := v.extractLsb' 0 16, held := true }, pix := [] }
  | some .height => .next { s with height := { val := v.extractLsb' 0 16, held := true }, pix := [] }
  | some .msglen => .next { s with msglen := { val := v, held := true } }
  | some .capacity => .next s
  | none => .next s

/-- A host `PixWrite` (R64, R227): refused while WIDTH or HEIGHT holds no value, as R61 and U6 order; GridBounds out
of bounds, the access then not performed (R65, R243). -/
def hostPixWrite (s : State) (x y : Half) (c : Chan) (v : Byte) : Host.Outcome State Fault Refusal :=
  if s.gridHeld = false then .refused .gridWithoutDimensions
  else if s.inGrid x.toNat y.toNat = false then .next (s.raise .gridBounds)
  else .next (s.pixStore x.toNat y.toNat c.toNat v)

/-- A host `PixRead` (R63, R227): as a write; out of bounds it returns no defined value (R243). -/
def hostPixRead (s : State) (x y : Half) (c : Chan) : Host.Outcome State Fault Refusal :=
  if s.gridHeld = false then .refused .gridWithoutDimensions
  else if s.inGrid x.toNat y.toNat = false then .next ((s.raise .gridBounds).answerByte none)
  else .next (s.answerByte (s.pixByte x.toNat y.toNat c.toNat))

/-- A host `MsgWrite` (R67): refused beyond `MSGBUF_BYTES`. -/
def hostMsgWrite (s : State) (i : Word) (v : Byte) : Host.Outcome State Fault Refusal :=
  if i.toNat < Config.msgbufBytes then .next (s.msgStore i.toNat v) else .refused .beyondMessageBuffer

/-- A host `MsgRead` (R66): refused beyond `MSGBUF_BYTES` (R67). -/
def hostMsgRead (s : State) (i : Word) : Host.Outcome State Fault Refusal :=
  if i.toNat < Config.msgbufBytes then .next (s.answerByte (s.msgByte i.toNat)) else .refused .beyondMessageBuffer

/-- Reset (R270): the reset state; the host's script goes on, and the free values of the run stay apart from one
another. -/
def State.resetBlock (s : State) : State :=
  { State.reset with script := s.script, draws := s.draws }

/-- The host's turn while STATUS is not BUSY (R227): every move is permitted. -/
def hostMove (s : State) (l : HostLine) : Host.Outcome State Fault Refusal :=
  match l with
  | .wr n v => writeRegister s n v
  | .launch v => writeCommandPaced s v
  | .rd n => .next (readRegister s n)
  | .pixw x y c v => hostPixWrite s x y c v
  | .pixr x y c => hostPixRead s x y c
  | .msgw i v => hostMsgWrite s i v
  | .msgr i => hostMsgRead s i
  | .wait => .next (s.answer ((statusCode s.status).setWidth 32))
  | .idle => .next s
  | .reset => .next s.resetBlock

/-- A turn while STATUS is BUSY (R226): the host may read STATUS or wait, and reset may come; any other move is refused. On
an idle host the engine makes a micro-step. `s` is the state after the line is taken from the script, `again` the state
with the line still in it: a WAIT reads BUSY, lets the engine make a micro-step and repeats (R98). -/
def busyTurn (s again : State) (l : HostLine) : Host.Outcome State Fault Refusal :=
  match l with
  | .rd n =>
    match registerOf n with
    | some .status => .next (readRegister s n)
    | _ => .refused .hostMoveWhileBusy
  | .wait => microStep (again.answer ((statusCode again.status).setWidth 32))
  | .idle => microStep s
  | .reset => .next s.resetBlock
  | .wr _ _ => .refused .hostMoveWhileBusy
  | .launch _ => .refused .hostMoveWhileBusy
  | .pixw _ _ _ _ => .refused .hostMoveWhileBusy
  | .pixr _ _ _ => .refused .hostMoveWhileBusy
  | .msgw _ _ => .refused .hostMoveWhileBusy
  | .msgr _ => .refused .hostMoveWhileBusy

/-- The line is taken from the script and the last reply is gone. -/
def State.take (s : State) (rest : List HostLine) : State := { s with script := rest, reply := none }

/-- One turn of host and engine (R79): a line of the script, or, with none left, a micro-step of a BUSY engine; an idle
engine does nothing until the next launch (R254). -/
def turn (s : State) : Host.Outcome State Fault Refusal :=
  match s.script with
  | [] => if s.status = .busy then microStep s else .next s
  | l :: rest => if s.status = .busy then busyTurn (s.take rest) s l else hostMove (s.take rest) l

/-- The host's next move is the write of a word of spec/opcode_table.json to CMD, with all that a launch needs to be
accepted (R220, R228, notes/assumptions/8.md): no command is running, and the operand registers WIDTH, HEIGHT and MSGLEN
hold values (those they have). -/
def State.withCommand (s : State) (v : Word) : State :=
  { s with
    status := if s.status = .busy then .idle else s.status
    width := { s.width with held := true }
    height := { s.height with held := true }
    msglen := { s.msglen with held := true }
    script := .wr 0 v :: s.script }

end Sys2Proof.Machine
end

