-- ==== Sys2Proof/Machine/Step.lean ====
section
/-! DEFINITION. One step of the machine: one turn of host and engine. -/

namespace Sys2Proof.Machine

/-- One step (R79, R223, R227). -/
def step (s : State) : Host.Outcome State Fault Refusal := turn s

/-- `s` with an instruction of the opcode table as what the next step runs: the block fetches nothing (R81), a command is
the value the host writes to CMD (R220, notes/assumptions/8.md). -/
def State.withFetchWord (s : State) (nbits w : Nat) : State := s.withCommand (tableWordValue nbits w)

end Sys2Proof.Machine
end

