-- ==== Sys2Proof/Machine/BitStream.lean ====
section
/-! DEFINITION. BitStreamProducer (spec/44_bit_stream_producer.md): the bits of a byte sequence, most significant first,
as a sequence (R160, R161) and as a pull iterator over a BitCursor with an explicit end of stream (R162 to R164). -/

namespace Sys2Proof.Machine

/-- The eight bits of a byte in stream order, MSB-index 0 first (R69). -/
def byteBits (v : Byte) : List Bit :=
  [getBit v 0, getBit v 1, getBit v 2, getBit v 3, getBit v 4, getBit v 5, getBit v 6, getBit v 7]

/-- `produce(bytes)`: the `len(bytes)*8` bits of the sequence, without the end-of-stream signal (R160). -/
def produce (bytes : List Byte) : List Bit :=
  bytes.flatMap byteBits

/-- BitCursor (spec/00_scope.md section 6): the position in a byte sequence. -/
structure BitCursor where
  byteIndex : Nat
  bitIndex : BitIdx
deriving DecidableEq, Repr

/-- What a pull returns: the bit 0, the bit 1, or end-of-stream, which is neither (R162). -/
inductive Pull where
  | bit (b : Bit)
  | endOfStream
deriving DecidableEq, Repr

/-- The cursor after a bit: bitIndex + 1, and from 7 to 0 with byteIndex + 1 (R161). -/
def advanceCursor (c : BitCursor) : BitCursor :=
  if c.bitIndex = 7 then { byteIndex := c.byteIndex + 1, bitIndex := 0 }
  else { c with bitIndex := c.bitIndex + 1 }

/-- One pull of the iterator: what it returns and the cursor after it. At the end the cursor stays, so every later pull
returns end-of-stream too (R162, R163). -/
def pull (bytes : List Byte) (c : BitCursor) : Pull × BitCursor :=
  match bytes[c.byteIndex]? with
  | some v => (.bit (getBit v c.bitIndex), advanceCursor c)
  | none => (.endOfStream, c)

/-- The cursor after n pulls from the start (0, 0) (R161). -/
def cursorAfter (bytes : List Byte) : Nat → BitCursor
  | 0 => { byteIndex := 0, bitIndex := 0 }
  | n + 1 => (pull bytes (cursorAfter bytes n)).2

/-- What the n-th pull returns, n from 0. -/
def nthPull (bytes : List Byte) (n : Nat) : Pull :=
  (pull bytes (cursorAfter bytes n)).1

end Sys2Proof.Machine
end

