-- ==== Sys2Proof/Machine/BitQueue.lean ====
section
/-! DEFINITION. The bit queue of the reference behaviour (R165): the producer task and the writing loop of an ENC joined by
a bounded queue. It is not part of the machine's state and no command uses it (R11, R47, R164); it is written here so
that the equivalence R165 claims can be stated. -/

namespace Sys2Proof.Machine

/-- The two tasks and their queue: the producer's cursor, the bits in the queue, oldest first, whether it is closed, the
bits the consumer has received, in order, and whether it has observed end-of-stream. -/
structure BitQueue where
  cursor : BitCursor
  queue : List Bit
  closed : Bool
  received : List Bit
  ended : Bool
deriving DecidableEq, Repr

/-- The start: both tasks start with the launch, the queue is empty and open (R253, spec/10_state.md section 7). -/
def BitQueue.start : BitQueue where
  cursor := { byteIndex := 0, bitIndex := 0 }
  queue := []
  closed := false
  received := []
  ended := false

/-- The moves of the two tasks (R165 (b), (c)). -/
inductive QueueMove where
  /-- Producer: push the next bit. -/
  | push
  /-- Producer: close, after the last bit. -/
  | close
  /-- Consumer: pop the oldest bit. -/
  | pop
  /-- Consumer: observe end-of-stream. -/
  | observeEnd
deriving DecidableEq, Repr

/-- A move on a queue of depth `depth`, or none where the task must wait or has finished (R165). That the producer waits on
a full queue is what the spec supplies from general knowledge (93_implementation_defined.md G1). -/
def BitQueue.fire (bytes : List Byte) (depth : Nat) (q : BitQueue) (m : QueueMove) : Option BitQueue :=
  match m with
  | .push =>
    if q.closed = false ∧ q.queue.length < depth then
      match pull bytes q.cursor with
      | (.bit b, c) => some { q with cursor := c, queue := q.queue ++ [b] }
      | (.endOfStream, _) => none
    else none
  | .close =>
    if q.closed = false then
      match pull bytes q.cursor with
      | (.bit _, _) => none
      | (.endOfStream, _) => some { q with closed := true }
    else none
  | .pop =>
    match q.queue with
    | [] => none
    | b :: rest => some { q with queue := rest, received := q.received ++ [b] }
  | .observeEnd =>
    if q.queue = [] ∧ q.closed = true ∧ q.ended = false then some { q with ended := true } else none

/-- A whole interleaving of the two tasks, or none where one of its moves is not permitted when its turn comes. -/
def BitQueue.run (bytes : List Byte) (depth : Nat) (q : BitQueue) : List QueueMove → Option BitQueue
  | [] => some q
  | m :: ms =>
    match q.fire bytes depth m with
    | some q' => q'.run bytes depth ms
    | none => none

end Sys2Proof.Machine
end

