-- ==== Sys2Proof/Safety.lean ====
section
/-! DEFINITION. What counts as a sound state: the invariants the spec gives the block (R36, R39, R42, R45, R61) and those
that its rules keep (memories in canonical form, nothing stored outside a grid). -/

namespace Sys2Proof.Machine

/-- A key of PIX lies in a grid of w columns and h rows: its column and row are in bounds (R61). -/
def pixKeyInGrid (w h key : Nat) : Bool :=
  decide (key / 4 / 65536 < w) && decide (key / 4 % 65536 < h)

/-- PIX is in canonical form and holds bytes only at addresses of the grid, so none while the grid has no dimensions
(R30, R61, R65). -/
def State.pixSound (s : State) : Bool :=
  Memory.wf s.pix && s.pix.all (fun cell => pixKeyInGrid s.w s.h cell.1) && (s.gridHeld || s.pix.isEmpty)

/-- MSG is in canonical form and holds bytes only below `MSGBUF_BYTES` (R33). -/
def State.msgSound (s : State) : Bool :=
  Memory.wf s.msg && s.msg.all (fun cell => decide (cell.1 < Config.msgbufBytes))

/-- PHASE is not IDLE exactly when STATUS is BUSY (R36); ERR names an error exactly when STATUS is FAIL (R23, R24). -/
def State.statusSound (s : State) : Bool :=
  (decide (s.phase = .idle) == !decide (s.status = .busy)) && (decide (s.err = .none) == !decide (s.status = .fail))

/-- The number of bits the running command has moved, read off BYTEIDX and BITIDX (R42). -/
def State.moved (s : State) : Nat := 8 * s.byteIdx.toNat + s.bitIdx.toNat

/-- The cursors agree with one another (R42): CX, CY and CH are those of carrier bit `moved`. -/
def State.cursorsAgree (s : State) : Bool :=
  decide (s.cx.toNat = (carrierPlace s.h s.moved).x) && decide (s.cy.toNat = (carrierPlace s.h s.moved).y) &&
    decide (s.ch.toNat = (carrierPlace s.h s.moved).c)

/-- What holds of the sequencer registers in each phase (R40, R42, R44, R45, R179, R194, R195, R198). -/
def State.phaseSound (s : State) : Bool :=
  match s.phase with
  | .idle => true
  | .encRun =>
    s.encHeld && s.admits && s.cursorsAgree && decide (s.hdr = splitToBytes s.msglen.val) &&
      (s.eos == endOfStream s.byteIdx s.msglen.val) && decide (s.moved ≤ framedBits s.len)
  | .decHdr => s.gridHeld && s.holdsHeader && s.cursorsAgree && decide (s.moved < 32)
  | .decPay =>
    s.gridHeld && s.msglen.held && s.holdsFramed s.len && s.cursorsAgree && decide (32 ≤ s.moved) &&
      decide (s.moved ≤ framedBits s.len)

/-- CAPACITY, where it holds a value, is 0 or at least 4 (R130). -/
def State.capacitySound (s : State) : Bool :=
  !s.capacity.held || decide (s.capacity.val = 0) || decide (4 ≤ s.capacity.val.toNat)

/-- The invariant of the block. -/
def State.sound (s : State) : Bool :=
  s.pixSound && s.msgSound && s.statusSound && decide (s.ch ≠ 3) && s.phaseSound && s.capacitySound

/-- What the host can see of a state: the seven registers and the two memories (R15, R20). -/
structure View where
  status : Status
  err : ErrCode
  width : Reg 16
  height : Reg 16
  msglen : Reg 32
  capacity : Reg 32
  pix : Memory
  msg : Memory
deriving DecidableEq, Repr

/-- The observation of a state (R15). -/
def State.view (s : State) : View where
  status := s.status
  err := s.err
  width := s.width
  height := s.height
  msglen := s.msglen
  capacity := s.capacity
  pix := s.pix
  msg := s.msg

/-- STATUS is not BUSY and the host's next line is `l`: the host may move (R227). -/
def State.hostTurn (s : State) (l : HostLine) (rest : List HostLine) : Prop :=
  s.script = l :: rest ∧ s.status ≠ .busy

/-- The operands of an admitted ENC in the memories hold values (R228, R94, R231): the R, G and B bytes of the first
⌈8·(4 + L)/3⌉ pixels, and the message bytes below L. -/
def State.encReadable (s : State) : Prop :=
  (∀ k < pixelBytes (framedBits s.len), s.carrier k ≠ none) ∧ ∀ j < s.len, s.msgByte j ≠ none

/-- The channel byte (x, y, c) after an ENC that is done, as R177 gives it: with k = 3·(x·H + y) + c, `setLSB` of the old
byte and `framedBit(k)` where c ≤ 2 and k < 8·(4 + L), else the old byte. -/
def State.encodedByte (s : State) (x y c : Nat) : Option Byte :=
  if c ≤ 2 ∧ 3 * (x * s.h + y) + c < framedBits s.len then
    match s.pixByte x y c, s.framedBit (3 * (x * s.h + y) + c) with
    | some v, some b => some (setLSB v b)
    | _, _ => none
  else s.pixByte x y c

/-- The key that ENC stores carrier bit k at: the expression of `State.embedBit`. -/
def State.carrierKey (s : State) (k : Nat) : Nat :=
  pixKey (carrierPlace s.h k).x (carrierPlace s.h k).y (carrierPlace s.h k).c

/-- Two states agree on the registers that a command reads (R231) and on both memories. -/
def State.sameOperands (s t : State) : Prop :=
  s.width = t.width ∧ s.height = t.height ∧ s.msglen = t.msglen ∧ s.pix = t.pix ∧ s.msg = t.msg

end Sys2Proof.Machine
end

