-- ==== Sys2Proof/Certificates/Slice0/Obligations.lean ====
section
/-! DEFINITION. The statements for the provers, from the numbered rules of spec/. -/

open Sys2Proof Sys2Proof.Machine

/-! ## Encoding and the step -/

/-- R91, R92, R93: match 0x01, 0x02, 0x03 under mask 0xFF, and nothing else, is CAP, ENC, DEC. -/
def Obligations.CommandCodesDecode : Prop :=
  ∀ op : Byte,
    (decode op = .ok .cap ↔ op &&& 0xFF = 0x01) ∧
    (decode op = .ok .enc ↔ op &&& 0xFF = 0x02) ∧
    (decode op = .ok .dec ↔ op &&& 0xFF = 0x03)

/-- R90 to R93, R95: every command's code decodes to it, a byte that decodes is the code of what it decodes to, and the
bytes that decode are the legal ones. -/
def Obligations.CommandCodesRoundTrip : Prop :=
  (∀ i : Instr, i.wellFormed = true ∧ decode (encode i) = .ok i) ∧
  (∀ (op : Byte) (i : Instr), decode op = .ok i → encode i = op) ∧
  (∀ op : Byte, (∃ i, decode op = .ok i) ↔ commandByteLegal op = true)

/-- R95, R244: a launch with any other code raises IllegalCommand and changes nothing but ERR, STATUS and (R246)
PHASE; beside that the host's line is taken from the script (the script and the line launch are the model's form of
the host, log entry 4). -/
def Obligations.OtherCodesRaiseIllegalCommand : Prop :=
  ∀ (s : State) (rest : List HostLine) (v : Word),
    s.hostTurn (.wr 0 v) rest ∨ s.hostTurn (.launch v) rest →
    commandByte v ≠ 0x01 → commandByte v ≠ 0x02 → commandByte v ≠ 0x03 →
    decode (commandByte v) = .error (.illegalCommand (commandByte v)) ∧
    step s = .next { s.take rest with err := .illegalCommand, status := .fail, phase := .idle }

/-- R22, R220: where the host's next line writes a legal code to CMD, the step is exec of the decoded command, at the state
in which the line is taken from the script (the model's form of the host, log entry 4). -/
def Obligations.StepRunsTheDecodedCommand : Prop :=
  ∀ (s : State) (rest : List HostLine) (v : Word) (i : Instr),
    s.hostTurn (.wr 0 v) rest → decode (commandByte v) = .ok i →
    i.wellFormed = true ∧ step s = exec i (s.take rest)

/-- R223, R98, R254: at the granularity of micro-steps the step is the launch alone; while STATUS is BUSY the steps are
micro-steps, with no host line, with an idle one, and with a WAIT, whose line stays and reads BUSY (1); and a block that is
not BUSY does nothing of itself. The lines launch and idle are the model's own (log entry 4). -/
def Obligations.StepAtMicroStepGranularity : Prop :=
  (∀ (s : State) (rest : List HostLine) (v : Word) (i : Instr),
    s.hostTurn (.launch v) rest → decode (commandByte v) = .ok i → step s = launchOnly i (s.take rest)) ∧
  (∀ s : State, s.status = .busy → s.script = [] → step s = microStep s) ∧
  (∀ (s : State) (rest : List HostLine), s.status = .busy → s.script = .idle :: rest →
    step s = microStep (s.take rest)) ∧
  (∀ (s : State) (rest : List HostLine), s.status = .busy → s.script = .wait :: rest →
    step s = microStep { s with reply := some 1 }) ∧
  (∀ s : State, s.status ≠ .busy → s.script = [] → step s = .next s)

/-! ## BitAccessor and WordFramer -/

/-- R110: the three closed forms of getBit. -/
def Obligations.GetBitReadsTheMsbIndex : Prop :=
  ∀ (v : Byte) (i : BitIdx),
    getBit v i = v.getLsbD (7 - i.toNat) ∧
    (getBit v i).toNat = v.toNat / 2 ^ (7 - i.toNat) % 2 ∧
    (getBit v i = true ↔ v &&& (0x80#8 >>> i.toNat) ≠ 0)

/-- R114: setBit then getBit at the same index gives the bit, and every other bit is unchanged. -/
def Obligations.SetBitThenGetBit : Prop :=
  ∀ (v : Byte) (i j : BitIdx) (b : Bit),
    getBit (setBit v i b) i = b ∧ (j ≠ i → getBit (setBit v i b) j = getBit v j)

/-- R112, R113, R115: the LSB functions, their closed forms and their agreement with the bit functions at MSB-index 7. -/
def Obligations.LsbFunctionsAreBitSeven : Prop :=
  ∀ (v : Byte) (a b : Bit),
    (getLSB v).toNat = v.toNat % 2 ∧
    (setLSB v b).toNat = 2 * (v.toNat / 2) + b.toNat ∧
    setLSB v b = (v &&& 0xFE) ||| (if b then 1 else 0) ∧
    setLSB (setLSB v a) b = setLSB v b ∧
    setLSB v (getLSB v) = v ∧
    getLSB v = getBit v 7 ∧
    setLSB v b = setBit v 7 b

/-- R120, R121, R122: the two functions of WordFramer and that they are inverse in both directions. -/
def Obligations.SplitAndCombineAreInverse : Prop :=
  (∀ n : Word,
    (splitToBytes n).b0.toNat = n.toNat / 2 ^ 24 % 256 ∧
    (splitToBytes n).b1.toNat = n.toNat / 2 ^ 16 % 256 ∧
    (splitToBytes n).b2.toNat = n.toNat / 2 ^ 8 % 256 ∧
    (splitToBytes n).b3.toNat = n.toNat % 256 ∧
    combineToInt (splitToBytes n) = n) ∧
  (∀ h : Header,
    (combineToInt h).toNat = h.b0.toNat * 2 ^ 24 + h.b1.toNat * 2 ^ 16 + h.b2.toNat * 2 ^ 8 + h.b3.toNat ∧
    splitToBytes (combineToInt h) = h)

/-! ## CapacityCalculator and CAP -/

/-- R130, R131: the definition with a signed intermediate is the one without; the result is 0 or at least 4; for 16-bit
dimensions it is below 2^31; and it is 0 exactly for grids of 21 pixels or fewer. -/
def Obligations.CapacityFormula : Prop :=
  ∀ w h : Nat,
    (maxEncodeSize w h : Int) =
      (if ((3 * w * h / 8 : Nat) : Int) - 4 < 4 then 0 else ((3 * w * h / 8 : Nat) : Int) - 4) ∧
    (maxEncodeSize w h = 0 ∨ 4 ≤ maxEncodeSize w h) ∧
    (w < 65536 → h < 65536 → maxEncodeSize w h < 2 ^ 31 ∧ 3 * w * h / 8 < 2 ^ 31) ∧
    (maxEncodeSize w h = 0 ↔ w * h ≤ 21)

/-- R132, R28: where WIDTH and HEIGHT hold values CAP completes: CAPACITY takes maxEncodeSize, which fits it, STATUS
is DONE, ERR is NONE, the sequencer is idle and nothing else changes; otherwise the launch is refused. That CAP leaves
the sequencer's cursors, RBYTE, HDR and EOS as they were is the model's reading (log entry 7; R35). -/
def Obligations.CapCompletes : Prop :=
  ∀ s : State,
    (s.gridHeld = true →
      exec .cap s = .next { s with
        capacity := { val := BitVec.ofNat 32 (maxEncodeSize s.w s.h), held := true }
        status := .done, err := .none, phase := .idle } ∧
      (BitVec.ofNat 32 (maxEncodeSize s.w s.h)).toNat = maxEncodeSize s.w s.h) ∧
    (s.gridHeld = false → exec .cap s = .refused .unwrittenRegister)

/-! ## Traversal and carousel -/

/-- R143, R144: `pixelOf(t)` is the pixel with t = x·H + y, and the pixel advance applied t times from (0, 0) reaches it,
and (W, 0) after the last pixel. -/
def Obligations.PixelAdvanceFollowsTheTraversal : Prop :=
  ∀ w h t : Nat, 0 < h →
    (t < w * h → (pixelOf h t).1 < w ∧ (pixelOf h t).2 < h ∧ t = (pixelOf h t).1 * h + (pixelOf h t).2 ∧
      (fun p : Nat × Nat => advancePixel h p.1 p.2)^[t] (0, 0) = pixelOf h t) ∧
    (t = w * h → (fun p : Nat × Nat => advancePixel h p.1 p.2)^[t] (0, 0) = (w, 0))

/-- R145, R146: the carousel advance applied k times from R of (0, 0) reaches carrier bit k, which lies in channel k mod 3
of the pixel with traversal index k div 3. -/
def Obligations.CarouselFollowsTheCarrierBits : Prop :=
  ∀ h k : Nat, 0 < h →
    carrierPlace h k = { x := k / 3 / h, y := k / 3 % h, c := k % 3 } ∧
    (advanceCarousel h)^[k] { x := 0, y := 0, c := 0 } = carrierPlace h k

/-! ## BitStreamProducer -/

/-- R160, R161: `produce(bytes)` has 8·n bits and bit k is `getBit(bytes[k div 8], k mod 8)`. -/
def Obligations.ProduceYieldsEachByteMsbFirst : Prop :=
  ∀ bytes : List Byte,
    (produce bytes).length = 8 * bytes.length ∧
    ∀ k, (produce bytes)[k]? = (bytes[k / 8]?).map (fun v => getBit v (BitVec.ofNat 3 (k % 8)))

/-- R162: pull number n (from 0) returns bit n of the sequence, and end-of-stream exactly when all bits have been yielded,
then and at every later pull. -/
def Obligations.PullsYieldTheBitsThenTheEnd : Prop :=
  ∀ (bytes : List Byte) (n : Nat),
    (∀ b, nthPull bytes n = .bit b ↔ (produce bytes)[n]? = some b) ∧
    (nthPull bytes n = .endOfStream ↔ 8 * bytes.length ≤ n)

/-- R165: in every interleaving of the two tasks, at every depth of at least 1, the consumer receives the bits in order;
it observes the end only after all of them; the queue never exceeds its depth; some task can move until the end is
observed; and the number of moves is bounded, so neither waits for ever. -/
def Obligations.QueueDeliversTheStreamInOrder : Prop :=
  ∀ (bytes : List Byte) (depth : Nat) (moves : List QueueMove) (q : BitQueue),
    0 < depth → BitQueue.start.run bytes depth moves = some q →
    (∃ later, produce bytes = q.received ++ q.queue ++ later) ∧
    (q.ended = true → q.received = produce bytes) ∧
    q.queue.length ≤ depth ∧
    (q.ended = false → ∃ m, q.fire bytes depth m ≠ none) ∧
    moves.length ≤ 2 * (produce bytes).length + 2

/-! ## ENC -/

/-- R172: bit k of the framed message of a message m of length L is bit k of `produce(splitToBytes(L) ++ m)`. -/
def Obligations.FramedBitsAreProduced : Prop :=
  ∀ (s : State) (m : List Byte),
    m.length = s.len → (∀ j, j < s.len → s.msgByte j = m[j]?) →
    ∀ k, k < framedBits s.len →
      s.framedBit k =
        (produce ([(splitToBytes s.msglen.val).b0, (splitToBytes s.msglen.val).b1,
                   (splitToBytes s.msglen.val).b2, (splitToBytes s.msglen.val).b3] ++ m))[k]?

/-- R171, R180: the admission check, exact. ENC with held operand registers raises CapacityExceeded exactly when
`maxEncodeSize < L + 4`, changing nothing but ERR, STATUS and PHASE; admitted is L + 8 ≤ ⌊3·W·H/8⌋; an admitted ENC
raises nothing. That every MSGLEN is answered rests on the model's MSGBUF_BYTES = 2^32 (log entry 6; R33), and that a
failed launch leaves the cursors on log entry 7. -/
def Obligations.EncAdmissionCheck : Prop :=
  ∀ s : State,
    (s.admits = true ↔ s.len + 8 ≤ 3 * s.w * s.h / 8) ∧
    (s.admits = true ↔ ¬ maxEncodeSize s.w s.h < s.len + 4) ∧
    (s.encHeld = true → s.admits = false →
      exec .enc s = .next { s with err := .capacityExceeded, status := .fail, phase := .idle }) ∧
    (s.admits = true → ∀ t, exec .enc s = .next t → t.status = .done ∧ t.err = .none)

/-- R177: an ENC whose operands hold values completes. Admitted, STATUS is DONE, ERR is NONE, every channel byte of
the grid is the one R177 gives, and MSG, MSGLEN, WIDTH, HEIGHT and CAPACITY are unchanged; not admitted, STATUS is
FAIL, ERR is CapacityExceeded and nothing else but PHASE changes. That every MSGLEN is answered rests on the model's
MSGBUF_BYTES = 2^32 (log entry 6; R33), and that a failed launch leaves the cursors on log entry 7. The operands in PIX
are whole pixels (R94, R231; log entry 15 on R202). -/
def Obligations.EncCompletes : Prop :=
  ∀ s : State, s.encHeld = true →
    (maxEncodeSize s.w s.h < s.len + 4 →
      exec .enc s = .next { s with err := .capacityExceeded, status := .fail, phase := .idle }) ∧
    (s.len + 4 ≤ maxEncodeSize s.w s.h → s.encReadable →
      ∃ t, exec .enc s = .next t ∧ t.status = .done ∧ t.err = .none ∧
        (∀ x y c, x < s.w → y < s.h → c < 4 → t.pixByte x y c = s.encodedByte x y c) ∧
        t.msg = s.msg ∧ t.msglen = s.msglen ∧ t.width = s.width ∧ t.height = s.height ∧ t.capacity = s.capacity)

/-- R175, R176: what ENC leaves unchanged. Every PIX byte but those at the keys of the first 8·(4 + L) carrier bits, where
the store goes and where only the least-significant bit may change; every alpha byte; MSG and every register but STATUS,
ERR and the sequencer's; the host's script, reply and draws. -/
def Obligations.EncFrame : Prop :=
  ∀ s t : State, exec .enc s = .next t →
    (∀ a, (∀ k < framedBits s.len, a ≠ s.carrierKey k) → Memory.read t.pix a = Memory.read s.pix a) ∧
    (∀ a v, Memory.read s.pix a = some v → ∃ u, Memory.read t.pix a = some u ∧ u.extractLsb' 1 7 = v.extractLsb' 1 7) ∧
    (∀ x y, Memory.read t.pix (pixKey x y 3) = Memory.read s.pix (pixKey x y 3)) ∧
    t.width = s.width ∧ t.height = s.height ∧ t.msglen = s.msglen ∧ t.capacity = s.capacity ∧ t.msg = s.msg ∧
    t.rbyte = s.rbyte ∧ t.script = s.script ∧ t.reply = s.reply ∧ t.draws = s.draws

/-- R72, R123: the wire format. After an ENC that is done, carrier bit k holds `framedBit(k)` for every k < 8·(4 + L), the
first 32 of them L[31] to L[0]; carrier bit 32 is channel B of the pixel with traversal index 10. -/
def Obligations.EncWritesTheWireFormat : Prop :=
  (∀ s t : State, exec .enc s = .next t → t.status = .done →
    (∀ k < framedBits s.len, t.carrierBit k = s.framedBit k ∧ s.framedBit k ≠ none) ∧
    (∀ k < 32, t.carrierBit k = some (s.msglen.val.getLsbD (31 - k)))) ∧
  (∀ h, carrierPlace h 32 = { x := (pixelOf h 10).1, y := (pixelOf h 10).2, c := 2 })

/-- R179: an admitted ENC never reaches the end of the grid: every carrier bit it writes exists, at least 32 are left over,
BYTEIDX fits, and GridBounds is not raised. -/
def Obligations.EncStaysInTheGrid : Prop :=
  ∀ s : State, s.admits = true →
    framedBits s.len + 32 ≤ s.carriers ∧ 4 + s.len + 4 ≤ 3 * s.w * s.h / 8 ∧ 4 + s.len < 2 ^ 31 ∧
    (∀ k < framedBits s.len, s.inGrid (carrierPlace s.h k).x (carrierPlace s.h k).y = true) ∧
    ∀ t, exec .enc s = .next t → t.err ≠ .gridBounds

/-- R78: ENC is idempotent: run again on its own result it changes nothing at all, where PIX is in canonical form. -/
def Obligations.EncTwiceIsEncOnce : Prop :=
  ∀ s t : State, Memory.wf s.pix = true → exec .enc s = .next t → t.status = .done → exec .enc t = .next t

/-- R183: the micro-steps of R178 reach the completion state of R177, every register the same: N + 1 micro-steps after the
launch where ENC is done, the launch alone where it fails. That the sequencer registers agree too is the model's (log
entry 7). -/
def Obligations.EncMicroStepsReachTheTransition : Prop :=
  ∀ s t : State, exec .enc s = .next t →
    (t.status = .done → ∃ u, launchEnc s = .next u ∧ u.status = .busy ∧
      microRun u (framedBits s.len + 1) = .next t) ∧
    (t.status ≠ .done → launchEnc s = .next t)

/-! ## DEC -/

/-- R192: the bits of carrier byte j are carrier bits 8·j to 8·j + 7, most significant first, and it holds a value exactly
when they do. -/
def Obligations.CarrierByteIsMsbFirst : Prop :=
  ∀ (s : State) (j : Nat),
    (∀ v, s.carrierByte j = some v →
      ∀ i : BitIdx, s.carrierBit (8 * j + i.toNat) = some (getBit v i)) ∧
    ((∀ i : BitIdx, s.carrierBit (8 * j + i.toNat) ≠ none) → s.carrierByte j ≠ none)

/-- R193: messageLength is the number whose bits, most significant first, are carrier bits 0 to 31. -/
def Obligations.HeaderIsTheFirstThirtyTwoCarrierBits : Prop :=
  ∀ (s : State) (h : Header), s.carrierHeader = some h →
    s.carrierByte 0 = some h.b0 ∧ s.carrierByte 1 = some h.b1 ∧
    s.carrierByte 2 = some h.b2 ∧ s.carrierByte 3 = some h.b3 ∧
    ∀ k < 32, s.carrierBit k = some ((combineToInt h).getLsbD (31 - k))

/-- R200, R196, R197: a DEC whose framed message fits the grid and whose pixels hold values (R231) completes: MSGLEN
takes the length, MSG[j] carrier byte 4 + j, the bytes of MSG beyond the length, PIX, WIDTH, HEIGHT and CAPACITY are
unchanged. That every length that fits the grid is answered rests on the model's MSGBUF_BYTES = 2^32 (log entry 6;
R33), and that the operands in PIX are whole pixels is R94 and R231 (log entry 15 on R202). -/
def Obligations.DecCompletes : Prop :=
  ∀ (s : State) (h : Header), s.gridHeld = true → s.holdsHeader = true → s.carrierHeader = some h →
    s.holdsFramed (combineToInt h).toNat = true →
    (∀ k < pixelBytes (framedBits (combineToInt h).toNat), s.carrier k ≠ none) →
    ∃ t, exec .dec s = .next t ∧ t.status = .done ∧ t.err = .none ∧
      t.msglen = { val := combineToInt h, held := true } ∧
      (∀ j < (combineToInt h).toNat, t.msgByte j = s.carrierByte (4 + j) ∧ t.msgByte j ≠ none) ∧
      (∀ j, (combineToInt h).toNat ≤ j → t.msgByte j = s.msgByte j) ∧
      t.pix = s.pix ∧ t.width = s.width ∧ t.height = s.height ∧ t.capacity = s.capacity

/-- R194, R195, R203: where WIDTH and HEIGHT hold values DEC fails with MalformedCarrier where the grid has fewer than 32
carrier bits, and, the eleven pixels of the header holding values, where the framed message the header announces does not
fit; and in no other case. PIX is then unchanged and MSGLEN and every byte of MSG hold no value (R34). Where WIDTH or
HEIGHT holds no value, as right after reset, there is no FAIL but a refusal (R228, O33). The bound check's case rests on
the model's MSGBUF_BYTES = 2^32 (log entry 6; R33); that the unspecified MSGLEN and MSG hold no value is log entry 13; that
a DEC which fails at the bound check takes no pixel beyond the header's is log entry 15. -/
def Obligations.DecFailsExactlyWhenMalformed : Prop :=
  (∀ s : State, s.gridHeld = true → s.carriers < 32 → ∃ t, exec .dec s = .next t ∧ t.status = .fail) ∧
  (∀ (s : State) (h : Header), s.gridHeld = true → 32 ≤ s.carriers → (∀ k < pixelBytes 32, s.carrier k ≠ none) →
    s.carrierHeader = some h → s.carriers < framedBits (combineToInt h).toNat →
    ∃ t, exec .dec s = .next t ∧ t.status = .fail) ∧
  (∀ s t : State, exec .dec s = .next t → t.status ≠ .done →
    (s.carriers < 32 ∨ ∃ h, s.carrierHeader = some h ∧ s.carriers < framedBits (combineToInt h).toNat) ∧
    t.status = .fail ∧ t.err = .malformedCarrier ∧ t.pix = s.pix ∧
    t.msglen.held = false ∧ ∀ j, t.msgByte j = none)

/-- R204, R190: DEC never writes PIX, WIDTH, HEIGHT or CAPACITY, whether it succeeds or fails; EOS and the host's script and
reply are unchanged too; where it is done, the bytes of MSG beyond the length and the counter of free values are
unchanged; and run again DEC gives the same result. The script, the reply and the counter are the model's (log entries 3
and 4). -/
def Obligations.DecFrame : Prop :=
  ∀ s t : State, exec .dec s = .next t →
    t.pix = s.pix ∧ t.width = s.width ∧ t.height = s.height ∧ t.capacity = s.capacity ∧ t.eos = s.eos ∧
    t.script = s.script ∧ t.reply = s.reply ∧
    (t.status = .done → t.draws = s.draws ∧ ∀ j, t.len ≤ j → t.msgByte j = s.msgByte j) ∧
    (Memory.wf s.msg = true → t.status = .done → exec .dec t = .next t) ∧
    (t.status ≠ .done → ∃ u, exec .dec t = .next u ∧ u.status = t.status ∧ u.err = t.err ∧ u.pix = t.pix)

/-- R202: the result of DEC depends on nothing but the carrier bits 0 to 8·(4 + messageLength) − 1: a second state with the
same dimensions and the same values there gives the same message, whatever the contents of its other bits, of the channels
after the last bit, its alpha bytes and later pixels. That a channel after the last bit must hold some value for the launch
to be accepted is R94 and R231 (log entry 15). -/
def Obligations.DecReadsOnlyItsCarrierBits : Prop :=
  ∀ s s' t : State, s.width = s'.width → s.height = s'.height →
    exec .dec s = .next t → t.status = .done →
    (∀ k < framedBits t.len, s.carrierBit k = s'.carrierBit k) →
    (∀ k < pixelBytes (framedBits t.len), s'.carrier k ≠ none) →
    ∃ t', exec .dec s' = .next t' ∧ t'.status = .done ∧ t'.msglen = t.msglen ∧
      ∀ j < t.len, t'.msgByte j = t.msgByte j

/-- R205: the round trip. If ENC is done, then DEC on the same PIX with the same WIDTH and HEIGHT is done and gives back L,
which MSGLEN then holds, and the message, whatever MSGLEN and MSG held in between. -/
def Obligations.DecodeAfterEncodeReturnsTheMessage : Prop :=
  ∀ s t d : State, exec .enc s = .next t → t.status = .done →
    d.pix = t.pix → d.width = t.width → d.height = t.height →
    ∃ u, exec .dec d = .next u ∧ u.status = .done ∧ u.err = .none ∧
      u.msglen = { val := s.msglen.val, held := true } ∧ ∀ j < s.len, u.msgByte j = s.msgByte j ∧ u.msgByte j ≠ none

/-- R208: the micro-steps of R201 reach the completion state of R200, every register the same: 8·(4 + messageLength) + 1
micro-steps after the launch where DEC is done, 32 where the bound check fails, the launch alone where the header check
fails. That the sequencer registers and the free values agree too is the model's (log entries 3 and 7). -/
def Obligations.DecMicroStepsReachTheTransition : Prop :=
  ∀ s t : State, exec .dec s = .next t →
    (t.status = .done → ∃ u, launchDec s = .next u ∧ u.status = .busy ∧
      microRun u (framedBits t.len + 1) = .next t) ∧
    (t.status ≠ .done → s.holdsHeader = true → ∃ u, launchDec s = .next u ∧ u.status = .busy ∧
      microRun u 32 = .next t) ∧
    (t.status ≠ .done → s.holdsHeader = false → launchDec s = .next t)

/-! ## Launch, completion and the whole machine -/

/-- R228, R231, R94, R272, exact: a launch is refused when an operand holds no value, and only then. CAP: WIDTH or HEIGHT.
ENC: WIDTH, HEIGHT or MSGLEN; and, admitted, an R, G or B byte of the first ⌈8·(4 + L)/3⌉ pixels or a message byte below L.
DEC: WIDTH or HEIGHT; and, with room for a header, an R, G or B byte of the header's eleven pixels, or, the framed message
fitting, of the first ⌈8·(4 + messageLength)/3⌉. That the checks of R171, R194 and R195 come before the bytes is log entry
9, whole pixels log entry 15, and that no length is beyond MSG log entry 6. -/
def Obligations.LaunchWithoutOperandsIsRefused : Prop :=
  (∀ (s : State) (r : Refusal), exec .cap s = .refused r ↔ r = .unwrittenRegister ∧ s.gridHeld = false) ∧
  (∀ (s : State) (r : Refusal), exec .enc s = .refused r ↔
    (r = .unwrittenRegister ∧ s.encHeld = false) ∨
    (r = .unwrittenByte ∧ s.encHeld = true ∧ s.admits = true ∧
      ((∃ k < pixelBytes (framedBits s.len), s.carrier k = none) ∨ ∃ j < s.len, s.msgByte j = none))) ∧
  (∀ (s : State) (r : Refusal), exec .dec s = .refused r ↔
    (r = .unwrittenRegister ∧ s.gridHeld = false) ∨
    (r = .unwrittenByte ∧ s.gridHeld = true ∧ s.holdsHeader = true ∧
      ((∃ k < pixelBytes 32, s.carrier k = none) ∨
       ∃ h, s.carrierHeader = some h ∧ s.holdsFramed (combineToInt h).toNat = true ∧
         ∃ k < pixelBytes (framedBits (combineToInt h).toNat), s.carrier k = none)))

/-- R220 step 2, R249: the outcome of a command does not depend on the STATUS and ERR an earlier command left. -/
def Obligations.CommandsIgnoreTheEarlierResult : Prop :=
  ∀ (i : Instr) (s : State) (st : Status) (e : ErrCode),
    exec i { s with status := st, err := e } = exec i s

/-- R225: the engine is deterministic in its operands: the same WIDTH, HEIGHT, MSGLEN, PIX and MSG give the same STATUS, ERR
and PIX, the same MSGLEN and MSG but for a failed DEC, and for CAP the same CAPACITY, whatever else the states hold. -/
def Obligations.OperandsDetermineTheResult : Prop :=
  ∀ (i : Instr) (s s' t : State), s.sameOperands s' → exec i s = .next t →
    ∃ t', exec i s' = .next t' ∧ t'.status = t.status ∧ t'.err = t.err ∧ t'.pix = t.pix ∧
      t'.width = t.width ∧ t'.height = t.height ∧
      (¬ (i = .dec ∧ t.status = .fail) → t'.msglen = t.msglen ∧ t'.msg = t.msg) ∧
      (i = .cap → t'.capacity = t.capacity)

/-- R222: every command completes: after its launch at most 3·W·H + 1 micro-steps reach a state that is not BUSY. -/
def Obligations.EveryCommandCompletes : Prop :=
  ∀ (i : Instr) (s u : State), launchOnly i s = .next u →
    ∃ n t, n ≤ s.carriers + 1 ∧ microRun u n = .next t ∧ t.status ≠ .busy ∧ t.phase = .idle

/-- R226: while STATUS is BUSY a read of STATUS returns BUSY (1) and changes nothing, and every host move other than
it, a wait (which is reads of STATUS), an idle host and a reset is refused. The lines launch, wait and idle, the
script and the reply are the model's form of the host (log entry 4). -/
def Obligations.BusyRefusesHostMoves : Prop :=
  ∀ (s : State) (l : HostLine) (rest : List HostLine), s.status = .busy → s.script = l :: rest →
    (l = .rd 1 → step s = .next { s with script := rest, reply := some 1 }) ∧
    (l ≠ .rd 1 → l ≠ .wait → l ≠ .idle → l ≠ .reset → step s = .refused .hostMoveWhileBusy)

/-- R21, R23, R24, R98: register accesses by number while STATUS is not BUSY. A read of STATUS gives IDLE 0, DONE 2 or
FAIL 3, a read of ERR NONE 0, CapacityExceeded 1, MalformedCarrier 2, GridBounds 3 or IllegalCommand 4; WAIT is a read of
STATUS, which ends it; an idle line does nothing. The line idle, the script and the reply are the model's (log entry 4). -/
def Obligations.RegisterAccessByNumber : Prop :=
  ∀ (s : State) (rest : List HostLine) (n : Byte) (v : Word),
    (s.hostTurn (.rd n) rest →
      (n = 0 ∨ 7 ≤ n.toNat → step s = .next { s with script := rest, reply := some 0 }) ∧
      (n = 1 → ∃ a : Word, step s = .next { s with script := rest, reply := some a } ∧
        (s.status = .idle ∧ a = 0 ∨ s.status = .done ∧ a = 2 ∨ s.status = .fail ∧ a = 3)) ∧
      (n = 2 → ∃ a : Word, step s = .next { s with script := rest, reply := some a } ∧
        (s.err = .none ∧ a = 0 ∨ s.err = .capacityExceeded ∧ a = 1 ∨ s.err = .malformedCarrier ∧ a = 2 ∨
          s.err = .gridBounds ∧ a = 3 ∨ s.err = .illegalCommand ∧ a = 4)) ∧
      (n = 3 → s.width.held = true →
        step s = .next { s with script := rest, reply := some (s.width.val.setWidth 32) }) ∧
      (n = 4 → s.height.held = true →
        step s = .next { s with script := rest, reply := some (s.height.val.setWidth 32) }) ∧
      (n = 5 → s.msglen.held = true → step s = .next { s with script := rest, reply := some s.msglen.val }) ∧
      (n = 6 → s.capacity.held = true → step s = .next { s with script := rest, reply := some s.capacity.val })) ∧
    (s.hostTurn (.wr n v) rest →
      (n = 1 ∨ n = 2 ∨ n = 6 ∨ 7 ≤ n.toNat → step s = .next { s with script := rest, reply := none }) ∧
      (n = 5 → step s = .next { s with script := rest, reply := none, msglen := { val := v, held := true } })) ∧
    (s.hostTurn .wait rest → ∃ a : Word, step s = .next { s with script := rest, reply := some a } ∧
      (s.status = .idle ∧ a = 0 ∨ s.status = .done ∧ a = 2 ∨ s.status = .fail ∧ a = 3)) ∧
    (s.hostTurn .idle rest → step s = .next { s with script := rest, reply := none })

/-- R34: a host read of a data register that holds no value completes with some value of the register's width, zero-extended,
and changes nothing but the model's own counter of such values (log entry 3). -/
def Obligations.UnwrittenRegisterReadsSomeValue : Prop :=
  ∀ (s : State) (rest : List HostLine) (n : Byte), s.hostTurn (.rd n) rest →
    (n = 3 ∧ s.width.held = false ∨ n = 4 ∧ s.height.held = false →
      ∃ x : Half, step s = .next { s with script := rest, reply := some (x.setWidth 32), draws := s.draws + 1 }) ∧
    (n = 5 ∧ s.msglen.held = false ∨ n = 6 ∧ s.capacity.held = false →
      ∃ x : Word, step s = .next { s with script := rest, reply := some x, draws := s.draws + 1 })

/-- R30, R25, R26: a host write to WIDTH or HEIGHT, whatever the value, stores its low 16 bits and makes every pixel
unwritten; nothing else changes but the script and the reply, which are the model's (log entry 4). -/
def Obligations.DimensionWriteDiscardsThePixels : Prop :=
  ∀ (s : State) (rest : List HostLine) (v : Word),
    (s.hostTurn (.wr 3 v) rest → ∃ t, step s = .next t ∧
      t = { s with script := rest, reply := none, pix := t.pix,
                   width := { val := BitVec.ofNat 16 (v.toNat % 65536), held := true } } ∧
      ∀ x y c, t.pixByte x y c = none) ∧
    (s.hostTurn (.wr 4 v) rest → ∃ t, step s = .next t ∧
      t = { s with script := rest, reply := none, pix := t.pix,
                   height := { val := BitVec.ofNat 16 (v.toNat % 65536), held := true } } ∧
      ∀ x y c, t.pixByte x y c = none)

/-- R64, R65, R243, R61: a host PixWrite in bounds stores the byte and changes no other byte of PIX; out of bounds it is not
performed and raises GridBounds; while WIDTH or HEIGHT holds no value it is refused. The script and the reply are the
model's (log entry 4). -/
def Obligations.HostPixWriteIsBoundsChecked : Prop :=
  ∀ (s : State) (rest : List HostLine) (x y : Half) (c : Chan) (v : Byte), s.hostTurn (.pixw x y c v) rest →
    (s.gridHeld = true → x.toNat < s.w → y.toNat < s.h →
      ∃ t, step s = .next t ∧ t = { s with script := rest, reply := none, pix := t.pix } ∧
        t.pixByte x.toNat y.toNat c.toNat = some v ∧
        ∀ (x' y' : Half) (c' : Chan), (x', y', c') ≠ (x, y, c) →
          t.pixByte x'.toNat y'.toNat c'.toNat = s.pixByte x'.toNat y'.toNat c'.toNat) ∧
    (s.gridHeld = true → s.w ≤ x.toNat ∨ s.h ≤ y.toNat →
      step s = .next { s with script := rest, reply := none, err := .gridBounds, status := .fail, phase := .idle }) ∧
    (s.gridHeld = false → step s = .refused .gridWithoutDimensions)

/-- R63, R65, R243, R61: a host PixRead in bounds returns the byte stored there and has no side effect, and some byte
where it holds no value; out of bounds it raises GridBounds and returns no defined value; without dimensions it is
refused. The counter of free values (log entry 3), the script and the reply (log entry 4) are the model's. -/
def Obligations.HostPixReadIsBoundsChecked : Prop :=
  ∀ (s : State) (rest : List HostLine) (x y : Half) (c : Chan), s.hostTurn (.pixr x y c) rest →
    (s.gridHeld = true → x.toNat < s.w → y.toNat < s.h →
      (∀ v, s.pixByte x.toNat y.toNat c.toNat = some v →
        step s = .next { s with script := rest, reply := some (v.setWidth 32) }) ∧
      (s.pixByte x.toNat y.toNat c.toNat = none → ∃ v : Byte,
        step s = .next { s with script := rest, reply := some (v.setWidth 32), draws := s.draws + 1 })) ∧
    (s.gridHeld = true → s.w ≤ x.toNat ∨ s.h ≤ y.toNat → ∃ v : Byte,
      step s = .next { s with script := rest, reply := some (v.setWidth 32), draws := s.draws + 1,
                              err := .gridBounds, status := .fail, phase := .idle }) ∧
    (s.gridHeld = false → step s = .refused .gridWithoutDimensions)

/-- R66, R67: with the default MSGBUF_BYTES every 32-bit index exists: a host MsgWrite stores the byte and changes no other
byte of MSG, a MsgRead returns the byte and has no side effect, and some byte where it holds no value. The buffer's size
and the counter of free values are the model's choice (log entries 6 and 3). -/
def Obligations.HostMessageAccess : Prop :=
  (∀ (s : State) (rest : List HostLine) (i : Word) (v : Byte), s.hostTurn (.msgw i v) rest →
    ∃ t, step s = .next t ∧ t = { s with script := rest, reply := none, msg := t.msg } ∧
      t.msgByte i.toNat = some v ∧ ∀ j, j ≠ i.toNat → t.msgByte j = s.msgByte j) ∧
  (∀ (s : State) (rest : List HostLine) (i : Word), s.hostTurn (.msgr i) rest →
    (∀ v, s.msgByte i.toNat = some v → step s = .next { s with script := rest, reply := some (v.setWidth 32) }) ∧
    (s.msgByte i.toNat = none → ∃ v : Byte,
      step s = .next { s with script := rest, reply := some (v.setWidth 32), draws := s.draws + 1 }))

/-- R246: raise records the error in ERR and STATUS, returns PHASE to IDLE and saves nothing anywhere else. -/
def Obligations.RaiseRecordsTheErrorOnly : Prop :=
  ∀ (s : State) (e : ErrCode), s.raise e = { s with err := e, status := .fail, phase := .idle }

/-- R50: the reset state, and that the block then does nothing until the host launches a command. -/
def Obligations.ResetState : Prop :=
  State.reset.status = .idle ∧ State.reset.err = .none ∧ State.reset.phase = .idle ∧
  State.reset.cx = 0 ∧ State.reset.cy = 0 ∧ State.reset.ch = 0 ∧ State.reset.byteIdx = 0 ∧
  State.reset.bitIdx = 0 ∧ State.reset.eos = false ∧
  State.reset.width.held = false ∧ State.reset.height.held = false ∧ State.reset.msglen.held = false ∧
  State.reset.capacity.held = false ∧
  (∀ a, Memory.read State.reset.pix a = none) ∧ (∀ i, State.reset.msgByte i = none) ∧
  step State.reset = .next State.reset

/-- R270: reset at any time, a running command included, gives the reset state; only the host's remaining script and the
model's counter of free values go on (log entries 3 and 4), and the contents behind "no value" are the model's (log
entry 1). -/
def Obligations.ResetAtAnyTime : Prop :=
  ∀ (s : State) (rest : List HostLine), s.script = .reset :: rest →
    step s = .next { State.reset with script := rest, draws := s.draws }

/-- R25, R26, R29: WIDTH and HEIGHT change only by a host write to them or a reset. -/
def Obligations.OnlyTheHostChangesTheDimensions : Prop :=
  ∀ s t : State, step s = .next t →
    (t.width ≠ s.width → ∃ rest, (∃ v, s.script = .wr 3 v :: rest) ∨ s.script = .reset :: rest) ∧
    (t.height ≠ s.height → ∃ rest, (∃ v, s.script = .wr 4 v :: rest) ∨ s.script = .reset :: rest)

/-- R28: CAPACITY changes only by the command CAP or a reset. -/
def Obligations.OnlyCapWritesCapacity : Prop :=
  ∀ s t : State, step s = .next t → t.capacity ≠ s.capacity →
    ∃ rest, s.script = .reset :: rest ∨
      ∃ v, decode (commandByte v) = .ok .cap ∧ (s.script = .wr 0 v :: rest ∨ s.script = .launch v :: rest)

/-- R64, R175: the engine never writes an alpha byte: one changes only by a host write to it, a dimension write, which
discards all pixels, or a reset. -/
def Obligations.OnlyTheHostChangesAlpha : Prop :=
  ∀ (s t : State) (x y : Half), step s = .next t →
    Memory.read t.pix (pixKey x.toNat y.toNat 3) ≠ Memory.read s.pix (pixKey x.toNat y.toNat 3) →
    ∃ rest, (∃ v, s.script = .pixw x y 3 v :: rest) ∨ (∃ v, s.script = .wr 3 v :: rest) ∨
      (∃ v, s.script = .wr 4 v :: rest) ∨ s.script = .reset :: rest

/-- R42, R35: in a sound state a micro-step that does not complete the command moves one bit: BYTEIDX·8 + BITIDX increases by
one, and every cursor stays the one of that bit. -/
def Obligations.MicroStepMovesOneBit : Prop :=
  ∀ s t : State, s.sound = true → s.status = .busy → microStep s = .next t → t.status = .busy →
    t.moved = s.moved + 1 ∧ t.cx.toNat = (carrierPlace t.h t.moved).x ∧ t.cy.toNat = (carrierPlace t.h t.moved).y ∧
    t.ch.toNat = (carrierPlace t.h t.moved).c

/-- The invariant holds at reset. -/
def Obligations.ResetIsSound : Prop := State.reset.sound = true

/-- The invariant of the block, kept by every step from every state that has it: PHASE is not IDLE exactly when STATUS is
BUSY (R36), ERR names an error exactly when STATUS is FAIL (R23), CH is never alpha (R39), the cursors agree (R42), EOS and
HDR are what R44 and R45 say, the checks that passed still hold (R179, R195), PIX holds nothing outside the grid (R65), both
memories are in canonical form, and CAPACITY is never 1, 2 or 3 (R130). -/
def Obligations.EveryStepKeepsTheBlockSound : Prop :=
  ∀ s t : State, s.sound = true → step s = .next t → t.sound = true

/-- R272, R228: a host that has done its duties gets a result from every launch. With WIDTH and HEIGHT held and all channel
bytes of the grid written, CAP and DEC answer a next state; with MSGLEN held and the message written too, so does ENC; and
the command has completed (R222). Right after reset, with none of them done, every launch is refused (V79). That no length
is beyond MSG is log entry 6. -/
def Obligations.HostDutiesGiveEveryLaunchAResult : Prop :=
  (∀ s : State, s.gridHeld = true → (∀ x y c, x < s.w → y < s.h → c < 4 → s.pixByte x y c ≠ none) →
    (∃ t, exec .cap s = .next t ∧ t.status ≠ .busy) ∧
    (∃ t, exec .dec s = .next t ∧ t.status ≠ .busy) ∧
    (s.msglen.held = true → (∀ j < s.len, s.msgByte j ≠ none) → ∃ t, exec .enc s = .next t ∧ t.status ≠ .busy)) ∧
  ∀ i : Instr, exec i State.reset = .refused .unwrittenRegister
end

