-- ==== Sys2Proof/Laws/Memory.lean ====
section
/-! SUPPORT. Memory: read after write, the canonical form and that a write keeps it (R64, R67). -/

namespace Sys2Proof.Machine

@[simp] theorem Memory.read_nil (a : Nat) : Memory.read [] a = none := rfl

/-- A read of the byte just written gives the value written. -/
@[simp] theorem Memory.read_write_same (m : Memory) (a : Nat) (v : Byte) :
    Memory.read (Memory.write m a v) a = some v := by
  induction m with
  | nil => simp [Memory.write, Memory.read]
  | cons cell rest ih =>
    obtain ⟨b, w⟩ := cell
    by_cases h1 : a < b
    · simp [Memory.write, h1, Memory.read]
    · by_cases h2 : a = b
      · simp [Memory.write, h2, Memory.read]
      · simpa [Memory.write, h1, h2, Memory.read] using ih

/-- A write leaves every other address alone. -/
theorem Memory.read_write_other (m : Memory) {a b : Nat} (v : Byte) (h : b ≠ a) :
    Memory.read (Memory.write m a v) b = Memory.read m b := by
  induction m with
  | nil => simp [Memory.write, Memory.read, h]
  | cons cell rest ih =>
    obtain ⟨c, w⟩ := cell
    by_cases h1 : a < c
    · simp [Memory.write, h1, Memory.read, h]
    · by_cases h2 : a = c
      · subst h2
        simp [Memory.write, Memory.read, h]
      · simp only [Memory.write, if_neg h1, if_neg h2, Memory.read, ih]

/-- What a read gives after a write, in one equation. -/
theorem Memory.read_write (m : Memory) (a b : Nat) (v : Byte) :
    Memory.read (Memory.write m a v) b = if b = a then some v else Memory.read m b := by
  by_cases h : b = a
  · simp [h]
  · simp [h, Memory.read_write_other m v h]

/-- The addresses of a memory after a write are those before and the one written. -/
theorem Memory.mem_write (m : Memory) (a : Nat) (v : Byte) (cell : Host.Cell) (h : cell ∈ Memory.write m a v) :
    cell.1 = a ∨ cell ∈ m := by
  induction m with
  | nil => simp_all [Memory.write]
  | cons head rest ih =>
    obtain ⟨b, w⟩ := head
    simp only [Memory.write] at h
    split at h
    · rcases List.mem_cons.mp h with rfl | h'
      · exact .inl rfl
      · exact .inr h'
    · split at h
      · rcases List.mem_cons.mp h with rfl | h'
        · exact .inl rfl
        · exact .inr (List.mem_cons_of_mem _ h')
      · rcases List.mem_cons.mp h with rfl | h'
        · exact .inr List.mem_cons_self
        · exact (ih h').imp_right (List.mem_cons_of_mem _)

theorem Memory.above_iff (m : Memory) (a : Nat) : Memory.above m a = true ↔ ∀ cell ∈ m, a < cell.1 := by
  simp [Memory.above]

theorem Memory.wf_cons (a : Nat) (v : Byte) (m : Memory) :
    Memory.wf ((a, v) :: m) = true ↔ (∀ cell ∈ m, a < cell.1) ∧ Memory.wf m = true := by
  simp [Memory.wf, Memory.above]

@[simp] theorem Memory.wf_nil : Memory.wf [] = true := rfl

/-- A write keeps the canonical form. -/
theorem Memory.wf_write (m : Memory) (a : Nat) (v : Byte) (h : Memory.wf m = true) :
    Memory.wf (Memory.write m a v) = true := by
  induction m with
  | nil => rfl
  | cons cell rest ih =>
    obtain ⟨b, w⟩ := cell
    obtain ⟨hb, hr⟩ := (Memory.wf_cons b w rest).mp h
    simp only [Memory.write]
    split
    · rename_i hab
      refine (Memory.wf_cons _ _ _).mpr ⟨?_, h⟩
      intro c hc
      rcases List.mem_cons.mp hc with rfl | hc'
      · exact hab
      · exact Nat.lt_trans hab (hb c hc')
    · split
      · rename_i hab
        subst hab
        exact (Memory.wf_cons _ _ _).mpr ⟨hb, hr⟩
      · rename_i h1 h2
        refine (Memory.wf_cons _ _ _).mpr ⟨?_, ih hr⟩
        intro c hc
        rcases Memory.mem_write rest a v c hc with he | hm
        · omega
        · exact hb c hm

/-- Below every address of a memory nothing is read. -/
theorem Memory.read_below (m : Memory) (a : Nat) (h : ∀ cell ∈ m, a < cell.1) : Memory.read m a = none := by
  induction m with
  | nil => rfl
  | cons cell rest ih =>
    have := h cell List.mem_cons_self
    simp only [Memory.read, if_neg (by omega : ¬ a = cell.1)]
    exact ih (fun c hc => h c (List.mem_cons_of_mem _ hc))

/-- In canonical form, writing the value a byte has changes nothing. -/
theorem Memory.write_same (m : Memory) (a : Nat) (v : Byte) (hw : Memory.wf m = true)
    (h : Memory.read m a = some v) : Memory.write m a v = m := by
  induction m with
  | nil => simp at h
  | cons cell rest ih =>
    obtain ⟨b, w⟩ := cell
    obtain ⟨hb, hr⟩ := (Memory.wf_cons b w rest).mp hw
    by_cases hab : a = b
    · subst hab
      simp only [Memory.read, if_true] at h
      simp [Memory.write, Option.some.inj h]
    · simp only [Memory.read, if_neg hab] at h
      have hlt : ¬ a < b := by
        intro hlt
        rw [Memory.read_below rest a (fun c hc => Nat.lt_trans hlt (hb c hc))] at h
        cases h
      simp only [Memory.write, if_neg hlt, if_neg hab, ih hr h]

/-- An address that reads a byte is listed. -/
theorem Memory.listed_of_read (m : Memory) (a : Nat) (v : Byte) (h : Memory.read m a = some v) : (a, v) ∈ m := by
  induction m with
  | nil => simp at h
  | cons cell rest ih =>
    simp only [Memory.read] at h
    split at h
    · rename_i ha
      cases h
      subst ha
      exact List.mem_cons_self
    · exact List.mem_cons_of_mem _ (ih h)

/-- In canonical form two memories that read alike are equal. -/
theorem Memory.ext_of_read (m n : Memory) (hm : Memory.wf m = true) (hn : Memory.wf n = true)
    (h : ∀ a, Memory.read m a = Memory.read n a) : m = n := by
  induction m generalizing n with
  | nil =>
    cases n with
    | nil => rfl
    | cons cell rest => simpa [Memory.read] using h cell.1
  | cons cell rest ih =>
    obtain ⟨a, v⟩ := cell
    obtain ⟨ha, hr⟩ := (Memory.wf_cons a v rest).mp hm
    cases n with
    | nil => simpa [Memory.read] using h a
    | cons cell' rest' =>
      obtain ⟨b, w⟩ := cell'
      obtain ⟨hb, hr'⟩ := (Memory.wf_cons b w rest').mp hn
      have hab : a = b := by
        by_contra hne
        rcases Nat.lt_or_gt_of_ne hne with hlt | hgt
        · have := h a
          rw [Memory.read_below ((b, w) :: rest') a] at this
          · simp [Memory.read] at this
          · intro c hc
            rcases List.mem_cons.mp hc with rfl | hc'
            · exact hlt
            · exact Nat.lt_trans hlt (hb c hc')
        · have := h b
          rw [Memory.read_below ((a, v) :: rest) b] at this
          · simp [Memory.read] at this
          · intro c hc
            rcases List.mem_cons.mp hc with rfl | hc'
            · exact hgt
            · exact Nat.lt_trans hgt (ha c hc')
      subst hab
      have hv : v = w := by simpa [Memory.read] using h a
      subst hv
      congr 1
      refine ih rest' hr hr' (fun c => ?_)
      by_cases hc : c = a
      · subst hc
        rw [Memory.read_below rest c ha, Memory.read_below rest' c hb]
      · simpa [Memory.read, hc] using h c

end Sys2Proof.Machine
end

