-- ==== Sys2Proof/Laws/State.lean ====
section
/-! SUPPORT. One lemma per field of State per named update of it, so that no proof unfolds a record update. Each is
true by the update's definition. -/

namespace Sys2Proof.Machine

/-! ### State.raise (R246) -/

@[simp] theorem State.raise_status (s : State) (e : ErrCode) : (s.raise e).status = .fail := rfl
@[simp] theorem State.raise_err (s : State) (e : ErrCode) : (s.raise e).err = e := rfl
@[simp] theorem State.raise_width (s : State) (e : ErrCode) : (s.raise e).width = s.width := rfl
@[simp] theorem State.raise_height (s : State) (e : ErrCode) : (s.raise e).height = s.height := rfl
@[simp] theorem State.raise_msglen (s : State) (e : ErrCode) : (s.raise e).msglen = s.msglen := rfl
@[simp] theorem State.raise_capacity (s : State) (e : ErrCode) : (s.raise e).capacity = s.capacity := rfl
@[simp] theorem State.raise_phase (s : State) (e : ErrCode) : (s.raise e).phase = .idle := rfl
@[simp] theorem State.raise_cx (s : State) (e : ErrCode) : (s.raise e).cx = s.cx := rfl
@[simp] theorem State.raise_cy (s : State) (e : ErrCode) : (s.raise e).cy = s.cy := rfl
@[simp] theorem State.raise_ch (s : State) (e : ErrCode) : (s.raise e).ch = s.ch := rfl
@[simp] theorem State.raise_byteIdx (s : State) (e : ErrCode) : (s.raise e).byteIdx = s.byteIdx := rfl
@[simp] theorem State.raise_bitIdx (s : State) (e : ErrCode) : (s.raise e).bitIdx = s.bitIdx := rfl
@[simp] theorem State.raise_rbyte (s : State) (e : ErrCode) : (s.raise e).rbyte = s.rbyte := rfl
@[simp] theorem State.raise_hdr (s : State) (e : ErrCode) : (s.raise e).hdr = s.hdr := rfl
@[simp] theorem State.raise_eos (s : State) (e : ErrCode) : (s.raise e).eos = s.eos := rfl
@[simp] theorem State.raise_pix (s : State) (e : ErrCode) : (s.raise e).pix = s.pix := rfl
@[simp] theorem State.raise_msg (s : State) (e : ErrCode) : (s.raise e).msg = s.msg := rfl
@[simp] theorem State.raise_script (s : State) (e : ErrCode) : (s.raise e).script = s.script := rfl
@[simp] theorem State.raise_reply (s : State) (e : ErrCode) : (s.raise e).reply = s.reply := rfl
@[simp] theorem State.raise_draws (s : State) (e : ErrCode) : (s.raise e).draws = s.draws := rfl
@[simp] theorem State.raise_w (s : State) (e : ErrCode) : (s.raise e).w = s.w := rfl
@[simp] theorem State.raise_h (s : State) (e : ErrCode) : (s.raise e).h = s.h := rfl
@[simp] theorem State.raise_len (s : State) (e : ErrCode) : (s.raise e).len = s.len := rfl

/-! ### State.begin (R220 step 2) -/

@[simp] theorem State.begin_status (s : State) : (s.begin).status = .busy := rfl
@[simp] theorem State.begin_err (s : State) : (s.begin).err = .none := rfl
@[simp] theorem State.begin_width (s : State) : (s.begin).width = s.width := rfl
@[simp] theorem State.begin_height (s : State) : (s.begin).height = s.height := rfl
@[simp] theorem State.begin_msglen (s : State) : (s.begin).msglen = s.msglen := rfl
@[simp] theorem State.begin_capacity (s : State) : (s.begin).capacity = s.capacity := rfl
@[simp] theorem State.begin_phase (s : State) : (s.begin).phase = s.phase := rfl
@[simp] theorem State.begin_cx (s : State) : (s.begin).cx = s.cx := rfl
@[simp] theorem State.begin_cy (s : State) : (s.begin).cy = s.cy := rfl
@[simp] theorem State.begin_ch (s : State) : (s.begin).ch = s.ch := rfl
@[simp] theorem State.begin_byteIdx (s : State) : (s.begin).byteIdx = s.byteIdx := rfl
@[simp] theorem State.begin_bitIdx (s : State) : (s.begin).bitIdx = s.bitIdx := rfl
@[simp] theorem State.begin_rbyte (s : State) : (s.begin).rbyte = s.rbyte := rfl
@[simp] theorem State.begin_hdr (s : State) : (s.begin).hdr = s.hdr := rfl
@[simp] theorem State.begin_eos (s : State) : (s.begin).eos = s.eos := rfl
@[simp] theorem State.begin_pix (s : State) : (s.begin).pix = s.pix := rfl
@[simp] theorem State.begin_msg (s : State) : (s.begin).msg = s.msg := rfl
@[simp] theorem State.begin_script (s : State) : (s.begin).script = s.script := rfl
@[simp] theorem State.begin_reply (s : State) : (s.begin).reply = s.reply := rfl
@[simp] theorem State.begin_draws (s : State) : (s.begin).draws = s.draws := rfl
@[simp] theorem State.begin_w (s : State) : (s.begin).w = s.w := rfl
@[simp] theorem State.begin_h (s : State) : (s.begin).h = s.h := rfl
@[simp] theorem State.begin_len (s : State) : (s.begin).len = s.len := rfl

/-! ### State.complete (R222) -/

@[simp] theorem State.complete_status (s : State) : (s.complete).status = .done := rfl
@[simp] theorem State.complete_err (s : State) : (s.complete).err = s.err := rfl
@[simp] theorem State.complete_width (s : State) : (s.complete).width = s.width := rfl
@[simp] theorem State.complete_height (s : State) : (s.complete).height = s.height := rfl
@[simp] theorem State.complete_msglen (s : State) : (s.complete).msglen = s.msglen := rfl
@[simp] theorem State.complete_capacity (s : State) : (s.complete).capacity = s.capacity := rfl
@[simp] theorem State.complete_phase (s : State) : (s.complete).phase = .idle := rfl
@[simp] theorem State.complete_cx (s : State) : (s.complete).cx = s.cx := rfl
@[simp] theorem State.complete_cy (s : State) : (s.complete).cy = s.cy := rfl
@[simp] theorem State.complete_ch (s : State) : (s.complete).ch = s.ch := rfl
@[simp] theorem State.complete_byteIdx (s : State) : (s.complete).byteIdx = s.byteIdx := rfl
@[simp] theorem State.complete_bitIdx (s : State) : (s.complete).bitIdx = s.bitIdx := rfl
@[simp] theorem State.complete_rbyte (s : State) : (s.complete).rbyte = s.rbyte := rfl
@[simp] theorem State.complete_hdr (s : State) : (s.complete).hdr = s.hdr := rfl
@[simp] theorem State.complete_eos (s : State) : (s.complete).eos = s.eos := rfl
@[simp] theorem State.complete_pix (s : State) : (s.complete).pix = s.pix := rfl
@[simp] theorem State.complete_msg (s : State) : (s.complete).msg = s.msg := rfl
@[simp] theorem State.complete_script (s : State) : (s.complete).script = s.script := rfl
@[simp] theorem State.complete_reply (s : State) : (s.complete).reply = s.reply := rfl
@[simp] theorem State.complete_draws (s : State) : (s.complete).draws = s.draws := rfl
@[simp] theorem State.complete_w (s : State) : (s.complete).w = s.w := rfl
@[simp] theorem State.complete_h (s : State) : (s.complete).h = s.h := rfl
@[simp] theorem State.complete_len (s : State) : (s.complete).len = s.len := rfl

/-! ### State.failDecode (R203) -/

@[simp] theorem State.failDecode_status (s : State) : (s.failDecode).status = .fail := rfl
@[simp] theorem State.failDecode_err (s : State) : (s.failDecode).err = .malformedCarrier := rfl
@[simp] theorem State.failDecode_width (s : State) : (s.failDecode).width = s.width := rfl
@[simp] theorem State.failDecode_height (s : State) : (s.failDecode).height = s.height := rfl
@[simp] theorem State.failDecode_msglen (s : State) : (s.failDecode).msglen = { val := Config.freeWord s.draws, held := false } := rfl
@[simp] theorem State.failDecode_capacity (s : State) : (s.failDecode).capacity = s.capacity := rfl
@[simp] theorem State.failDecode_phase (s : State) : (s.failDecode).phase = .idle := rfl
@[simp] theorem State.failDecode_cx (s : State) : (s.failDecode).cx = s.cx := rfl
@[simp] theorem State.failDecode_cy (s : State) : (s.failDecode).cy = s.cy := rfl
@[simp] theorem State.failDecode_ch (s : State) : (s.failDecode).ch = s.ch := rfl
@[simp] theorem State.failDecode_byteIdx (s : State) : (s.failDecode).byteIdx = s.byteIdx := rfl
@[simp] theorem State.failDecode_bitIdx (s : State) : (s.failDecode).bitIdx = s.bitIdx := rfl
@[simp] theorem State.failDecode_rbyte (s : State) : (s.failDecode).rbyte = s.rbyte := rfl
@[simp] theorem State.failDecode_hdr (s : State) : (s.failDecode).hdr = s.hdr := rfl
@[simp] theorem State.failDecode_eos (s : State) : (s.failDecode).eos = s.eos := rfl
@[simp] theorem State.failDecode_pix (s : State) : (s.failDecode).pix = s.pix := rfl
@[simp] theorem State.failDecode_msg (s : State) : (s.failDecode).msg = [] := rfl
@[simp] theorem State.failDecode_script (s : State) : (s.failDecode).script = s.script := rfl
@[simp] theorem State.failDecode_reply (s : State) : (s.failDecode).reply = s.reply := rfl
@[simp] theorem State.failDecode_draws (s : State) : (s.failDecode).draws = s.draws + 1 := rfl
@[simp] theorem State.failDecode_w (s : State) : (s.failDecode).w = s.w := rfl
@[simp] theorem State.failDecode_h (s : State) : (s.failDecode).h = s.h := rfl

/-! ### State.atBit (R42) -/

@[simp] theorem State.atBit_status (s : State) (k : Nat) : (s.atBit k).status = s.status := rfl
@[simp] theorem State.atBit_err (s : State) (k : Nat) : (s.atBit k).err = s.err := rfl
@[simp] theorem State.atBit_width (s : State) (k : Nat) : (s.atBit k).width = s.width := rfl
@[simp] theorem State.atBit_height (s : State) (k : Nat) : (s.atBit k).height = s.height := rfl
@[simp] theorem State.atBit_msglen (s : State) (k : Nat) : (s.atBit k).msglen = s.msglen := rfl
@[simp] theorem State.atBit_capacity (s : State) (k : Nat) : (s.atBit k).capacity = s.capacity := rfl
@[simp] theorem State.atBit_phase (s : State) (k : Nat) : (s.atBit k).phase = s.phase := rfl
@[simp] theorem State.atBit_cx (s : State) (k : Nat) : (s.atBit k).cx = BitVec.ofNat 16 (carrierPlace s.h k).x := rfl
@[simp] theorem State.atBit_cy (s : State) (k : Nat) : (s.atBit k).cy = BitVec.ofNat 16 (carrierPlace s.h k).y := rfl
@[simp] theorem State.atBit_ch (s : State) (k : Nat) : (s.atBit k).ch = BitVec.ofNat 2 (carrierPlace s.h k).c := rfl
@[simp] theorem State.atBit_byteIdx (s : State) (k : Nat) : (s.atBit k).byteIdx = BitVec.ofNat 32 (k / 8) := rfl
@[simp] theorem State.atBit_bitIdx (s : State) (k : Nat) : (s.atBit k).bitIdx = BitVec.ofNat 3 (k % 8) := rfl
@[simp] theorem State.atBit_rbyte (s : State) (k : Nat) : (s.atBit k).rbyte = s.rbyte := rfl
@[simp] theorem State.atBit_hdr (s : State) (k : Nat) : (s.atBit k).hdr = s.hdr := rfl
@[simp] theorem State.atBit_eos (s : State) (k : Nat) : (s.atBit k).eos = s.eos := rfl
@[simp] theorem State.atBit_pix (s : State) (k : Nat) : (s.atBit k).pix = s.pix := rfl
@[simp] theorem State.atBit_msg (s : State) (k : Nat) : (s.atBit k).msg = s.msg := rfl
@[simp] theorem State.atBit_script (s : State) (k : Nat) : (s.atBit k).script = s.script := rfl
@[simp] theorem State.atBit_reply (s : State) (k : Nat) : (s.atBit k).reply = s.reply := rfl
@[simp] theorem State.atBit_draws (s : State) (k : Nat) : (s.atBit k).draws = s.draws := rfl
@[simp] theorem State.atBit_w (s : State) (k : Nat) : (s.atBit k).w = s.w := rfl
@[simp] theorem State.atBit_h (s : State) (k : Nat) : (s.atBit k).h = s.h := rfl
@[simp] theorem State.atBit_len (s : State) (k : Nat) : (s.atBit k).len = s.len := rfl

/-! ### State.advance (R178, R201) -/

@[simp] theorem State.advance_status (s : State) : (s.advance).status = s.status := rfl
@[simp] theorem State.advance_err (s : State) : (s.advance).err = s.err := rfl
@[simp] theorem State.advance_width (s : State) : (s.advance).width = s.width := rfl
@[simp] theorem State.advance_height (s : State) : (s.advance).height = s.height := rfl
@[simp] theorem State.advance_msglen (s : State) : (s.advance).msglen = s.msglen := rfl
@[simp] theorem State.advance_capacity (s : State) : (s.advance).capacity = s.capacity := rfl
@[simp] theorem State.advance_phase (s : State) : (s.advance).phase = s.phase := rfl
@[simp] theorem State.advance_cx (s : State) : (s.advance).cx = BitVec.ofNat 16 (advanceCarousel s.h { x := s.cx.toNat, y := s.cy.toNat, c := s.ch.toNat }).x := rfl
@[simp] theorem State.advance_cy (s : State) : (s.advance).cy = BitVec.ofNat 16 (advanceCarousel s.h { x := s.cx.toNat, y := s.cy.toNat, c := s.ch.toNat }).y := rfl
@[simp] theorem State.advance_ch (s : State) : (s.advance).ch = BitVec.ofNat 2 (advanceCarousel s.h { x := s.cx.toNat, y := s.cy.toNat, c := s.ch.toNat }).c := rfl
@[simp] theorem State.advance_byteIdx (s : State) : (s.advance).byteIdx = if s.bitIdx + 1 = 0 then s.byteIdx + 1 else s.byteIdx := rfl
@[simp] theorem State.advance_bitIdx (s : State) : (s.advance).bitIdx = s.bitIdx + 1 := rfl
@[simp] theorem State.advance_rbyte (s : State) : (s.advance).rbyte = s.rbyte := rfl
@[simp] theorem State.advance_hdr (s : State) : (s.advance).hdr = s.hdr := rfl
@[simp] theorem State.advance_eos (s : State) : (s.advance).eos = s.eos := rfl
@[simp] theorem State.advance_pix (s : State) : (s.advance).pix = s.pix := rfl
@[simp] theorem State.advance_msg (s : State) : (s.advance).msg = s.msg := rfl
@[simp] theorem State.advance_script (s : State) : (s.advance).script = s.script := rfl
@[simp] theorem State.advance_reply (s : State) : (s.advance).reply = s.reply := rfl
@[simp] theorem State.advance_draws (s : State) : (s.advance).draws = s.draws := rfl
@[simp] theorem State.advance_w (s : State) : (s.advance).w = s.w := rfl
@[simp] theorem State.advance_h (s : State) : (s.advance).h = s.h := rfl
@[simp] theorem State.advance_len (s : State) : (s.advance).len = s.len := rfl

/-! ### State.pixStore (R64) -/

@[simp] theorem State.pixStore_status (s : State) (x y c : Nat) (v : Byte) : (s.pixStore x y c v).status = s.status := rfl
@[simp] theorem State.pixStore_err (s : State) (x y c : Nat) (v : Byte) : (s.pixStore x y c v).err = s.err := rfl
@[simp] theorem State.pixStore_width (s : State) (x y c : Nat) (v : Byte) : (s.pixStore x y c v).width = s.width := rfl
@[simp] theorem State.pixStore_height (s : State) (x y c : Nat) (v : Byte) : (s.pixStore x y c v).height = s.height := rfl
@[simp] theorem State.pixStore_msglen (s : State) (x y c : Nat) (v : Byte) : (s.pixStore x y c v).msglen = s.msglen := rfl
@[simp] theorem State.pixStore_capacity (s : State) (x y c : Nat) (v : Byte) : (s.pixStore x y c v).capacity = s.capacity := rfl
@[simp] theorem State.pixStore_phase (s : State) (x y c : Nat) (v : Byte) : (s.pixStore x y c v).phase = s.phase := rfl
@[simp] theorem State.pixStore_cx (s : State) (x y c : Nat) (v : Byte) : (s.pixStore x y c v).cx = s.cx := rfl
@[simp] theorem State.pixStore_cy (s : State) (x y c : Nat) (v : Byte) : (s.pixStore x y c v).cy = s.cy := rfl
@[simp] theorem State.pixStore_ch (s : State) (x y c : Nat) (v : Byte) : (s.pixStore x y c v).ch = s.ch := rfl
@[simp] theorem State.pixStore_byteIdx (s : State) (x y c : Nat) (v : Byte) : (s.pixStore x y c v).byteIdx = s.byteIdx := rfl
@[simp] theorem State.pixStore_bitIdx (s : State) (x y c : Nat) (v : Byte) : (s.pixStore x y c v).bitIdx = s.bitIdx := rfl
@[simp] theorem State.pixStore_rbyte (s : State) (x y c : Nat) (v : Byte) : (s.pixStore x y c v).rbyte = s.rbyte := rfl
@[simp] theorem State.pixStore_hdr (s : State) (x y c : Nat) (v : Byte) : (s.pixStore x y c v).hdr = s.hdr := rfl
@[simp] theorem State.pixStore_eos (s : State) (x y c : Nat) (v : Byte) : (s.pixStore x y c v).eos = s.eos := rfl
@[simp] theorem State.pixStore_pix (s : State) (x y c : Nat) (v : Byte) : (s.pixStore x y c v).pix = Memory.write s.pix (pixKey x y c) v := rfl
@[simp] theorem State.pixStore_msg (s : State) (x y c : Nat) (v : Byte) : (s.pixStore x y c v).msg = s.msg := rfl
@[simp] theorem State.pixStore_script (s : State) (x y c : Nat) (v : Byte) : (s.pixStore x y c v).script = s.script := rfl
@[simp] theorem State.pixStore_reply (s : State) (x y c : Nat) (v : Byte) : (s.pixStore x y c v).reply = s.reply := rfl
@[simp] theorem State.pixStore_draws (s : State) (x y c : Nat) (v : Byte) : (s.pixStore x y c v).draws = s.draws := rfl
@[simp] theorem State.pixStore_w (s : State) (x y c : Nat) (v : Byte) : (s.pixStore x y c v).w = s.w := rfl
@[simp] theorem State.pixStore_h (s : State) (x y c : Nat) (v : Byte) : (s.pixStore x y c v).h = s.h := rfl
@[simp] theorem State.pixStore_len (s : State) (x y c : Nat) (v : Byte) : (s.pixStore x y c v).len = s.len := rfl

/-! ### State.msgStore (R67) -/

@[simp] theorem State.msgStore_status (s : State) (i : Nat) (v : Byte) : (s.msgStore i v).status = s.status := rfl
@[simp] theorem State.msgStore_err (s : State) (i : Nat) (v : Byte) : (s.msgStore i v).err = s.err := rfl
@[simp] theorem State.msgStore_width (s : State) (i : Nat) (v : Byte) : (s.msgStore i v).width = s.width := rfl
@[simp] theorem State.msgStore_height (s : State) (i : Nat) (v : Byte) : (s.msgStore i v).height = s.height := rfl
@[simp] theorem State.msgStore_msglen (s : State) (i : Nat) (v : Byte) : (s.msgStore i v).msglen = s.msglen := rfl
@[simp] theorem State.msgStore_capacity (s : State) (i : Nat) (v : Byte) : (s.msgStore i v).capacity = s.capacity := rfl
@[simp] theorem State.msgStore_phase (s : State) (i : Nat) (v : Byte) : (s.msgStore i v).phase = s.phase := rfl
@[simp] theorem State.msgStore_cx (s : State) (i : Nat) (v : Byte) : (s.msgStore i v).cx = s.cx := rfl
@[simp] theorem State.msgStore_cy (s : State) (i : Nat) (v : Byte) : (s.msgStore i v).cy = s.cy := rfl
@[simp] theorem State.msgStore_ch (s : State) (i : Nat) (v : Byte) : (s.msgStore i v).ch = s.ch := rfl
@[simp] theorem State.msgStore_byteIdx (s : State) (i : Nat) (v : Byte) : (s.msgStore i v).byteIdx = s.byteIdx := rfl
@[simp] theorem State.msgStore_bitIdx (s : State) (i : Nat) (v : Byte) : (s.msgStore i v).bitIdx = s.bitIdx := rfl
@[simp] theorem State.msgStore_rbyte (s : State) (i : Nat) (v : Byte) : (s.msgStore i v).rbyte = s.rbyte := rfl
@[simp] theorem State.msgStore_hdr (s : State) (i : Nat) (v : Byte) : (s.msgStore i v).hdr = s.hdr := rfl
@[simp] theorem State.msgStore_eos (s : State) (i : Nat) (v : Byte) : (s.msgStore i v).eos = s.eos := rfl
@[simp] theorem State.msgStore_pix (s : State) (i : Nat) (v : Byte) : (s.msgStore i v).pix = s.pix := rfl
@[simp] theorem State.msgStore_msg (s : State) (i : Nat) (v : Byte) : (s.msgStore i v).msg = Memory.write s.msg i v := rfl
@[simp] theorem State.msgStore_script (s : State) (i : Nat) (v : Byte) : (s.msgStore i v).script = s.script := rfl
@[simp] theorem State.msgStore_reply (s : State) (i : Nat) (v : Byte) : (s.msgStore i v).reply = s.reply := rfl
@[simp] theorem State.msgStore_draws (s : State) (i : Nat) (v : Byte) : (s.msgStore i v).draws = s.draws := rfl
@[simp] theorem State.msgStore_w (s : State) (i : Nat) (v : Byte) : (s.msgStore i v).w = s.w := rfl
@[simp] theorem State.msgStore_h (s : State) (i : Nat) (v : Byte) : (s.msgStore i v).h = s.h := rfl
@[simp] theorem State.msgStore_len (s : State) (i : Nat) (v : Byte) : (s.msgStore i v).len = s.len := rfl

/-! ### State.decodedTo (R42 to R44) -/

@[simp] theorem State.decodedTo_status (s : State) (h : Header) (n : Nat) (r : Byte) : (s.decodedTo h n r).status = s.status := rfl
@[simp] theorem State.decodedTo_err (s : State) (h : Header) (n : Nat) (r : Byte) : (s.decodedTo h n r).err = s.err := rfl
@[simp] theorem State.decodedTo_width (s : State) (h : Header) (n : Nat) (r : Byte) : (s.decodedTo h n r).width = s.width := rfl
@[simp] theorem State.decodedTo_height (s : State) (h : Header) (n : Nat) (r : Byte) : (s.decodedTo h n r).height = s.height := rfl
@[simp] theorem State.decodedTo_msglen (s : State) (h : Header) (n : Nat) (r : Byte) : (s.decodedTo h n r).msglen = s.msglen := rfl
@[simp] theorem State.decodedTo_capacity (s : State) (h : Header) (n : Nat) (r : Byte) : (s.decodedTo h n r).capacity = s.capacity := rfl
@[simp] theorem State.decodedTo_phase (s : State) (h : Header) (n : Nat) (r : Byte) : (s.decodedTo h n r).phase = s.phase := rfl
@[simp] theorem State.decodedTo_cx (s : State) (h : Header) (n : Nat) (r : Byte) : (s.decodedTo h n r).cx = BitVec.ofNat 16 (carrierPlace s.h (framedBits n)).x := rfl
@[simp] theorem State.decodedTo_cy (s : State) (h : Header) (n : Nat) (r : Byte) : (s.decodedTo h n r).cy = BitVec.ofNat 16 (carrierPlace s.h (framedBits n)).y := rfl
@[simp] theorem State.decodedTo_ch (s : State) (h : Header) (n : Nat) (r : Byte) : (s.decodedTo h n r).ch = BitVec.ofNat 2 (carrierPlace s.h (framedBits n)).c := rfl
@[simp] theorem State.decodedTo_byteIdx (s : State) (h : Header) (n : Nat) (r : Byte) : (s.decodedTo h n r).byteIdx = BitVec.ofNat 32 (framedBits n / 8) := rfl
@[simp] theorem State.decodedTo_bitIdx (s : State) (h : Header) (n : Nat) (r : Byte) : (s.decodedTo h n r).bitIdx = BitVec.ofNat 3 (framedBits n % 8) := rfl
@[simp] theorem State.decodedTo_rbyte (s : State) (h : Header) (n : Nat) (r : Byte) : (s.decodedTo h n r).rbyte = r := rfl
@[simp] theorem State.decodedTo_hdr (s : State) (h : Header) (n : Nat) (r : Byte) : (s.decodedTo h n r).hdr = h := rfl
@[simp] theorem State.decodedTo_eos (s : State) (h : Header) (n : Nat) (r : Byte) : (s.decodedTo h n r).eos = s.eos := rfl
@[simp] theorem State.decodedTo_pix (s : State) (h : Header) (n : Nat) (r : Byte) : (s.decodedTo h n r).pix = s.pix := rfl
@[simp] theorem State.decodedTo_msg (s : State) (h : Header) (n : Nat) (r : Byte) : (s.decodedTo h n r).msg = s.msg := rfl
@[simp] theorem State.decodedTo_script (s : State) (h : Header) (n : Nat) (r : Byte) : (s.decodedTo h n r).script = s.script := rfl
@[simp] theorem State.decodedTo_reply (s : State) (h : Header) (n : Nat) (r : Byte) : (s.decodedTo h n r).reply = s.reply := rfl
@[simp] theorem State.decodedTo_draws (s : State) (h : Header) (n : Nat) (r : Byte) : (s.decodedTo h n r).draws = s.draws := rfl
@[simp] theorem State.decodedTo_w (s : State) (h : Header) (n : Nat) (r : Byte) : (s.decodedTo h n r).w = s.w := rfl
@[simp] theorem State.decodedTo_h (s : State) (h : Header) (n : Nat) (r : Byte) : (s.decodedTo h n r).h = s.h := rfl
@[simp] theorem State.decodedTo_len (s : State) (h : Header) (n : Nat) (r : Byte) : (s.decodedTo h n r).len = s.len := rfl

/-! ### State.start (R35) -/

@[simp] theorem State.start_status (s : State) (p : Phase) : (s.start p).status = s.status := rfl
@[simp] theorem State.start_err (s : State) (p : Phase) : (s.start p).err = s.err := rfl
@[simp] theorem State.start_width (s : State) (p : Phase) : (s.start p).width = s.width := rfl
@[simp] theorem State.start_height (s : State) (p : Phase) : (s.start p).height = s.height := rfl
@[simp] theorem State.start_msglen (s : State) (p : Phase) : (s.start p).msglen = s.msglen := rfl
@[simp] theorem State.start_capacity (s : State) (p : Phase) : (s.start p).capacity = s.capacity := rfl
@[simp] theorem State.start_phase (s : State) (p : Phase) : (s.start p).phase = p := rfl
@[simp] theorem State.start_cx (s : State) (p : Phase) : (s.start p).cx = BitVec.ofNat 16 (carrierPlace s.h 0).x := rfl
@[simp] theorem State.start_cy (s : State) (p : Phase) : (s.start p).cy = BitVec.ofNat 16 (carrierPlace s.h 0).y := rfl
@[simp] theorem State.start_ch (s : State) (p : Phase) : (s.start p).ch = BitVec.ofNat 2 (carrierPlace s.h 0).c := rfl
@[simp] theorem State.start_byteIdx (s : State) (p : Phase) : (s.start p).byteIdx = 0 := rfl
@[simp] theorem State.start_bitIdx (s : State) (p : Phase) : (s.start p).bitIdx = 0 := rfl
@[simp] theorem State.start_rbyte (s : State) (p : Phase) : (s.start p).rbyte = s.rbyte := rfl
@[simp] theorem State.start_hdr (s : State) (p : Phase) : (s.start p).hdr = s.hdr := rfl
@[simp] theorem State.start_eos (s : State) (p : Phase) : (s.start p).eos = s.eos := rfl
@[simp] theorem State.start_pix (s : State) (p : Phase) : (s.start p).pix = s.pix := rfl
@[simp] theorem State.start_msg (s : State) (p : Phase) : (s.start p).msg = s.msg := rfl
@[simp] theorem State.start_script (s : State) (p : Phase) : (s.start p).script = s.script := rfl
@[simp] theorem State.start_reply (s : State) (p : Phase) : (s.start p).reply = s.reply := rfl
@[simp] theorem State.start_draws (s : State) (p : Phase) : (s.start p).draws = s.draws := rfl
@[simp] theorem State.start_w (s : State) (p : Phase) : (s.start p).w = s.w := rfl
@[simp] theorem State.start_h (s : State) (p : Phase) : (s.start p).h = s.h := rfl
@[simp] theorem State.start_len (s : State) (p : Phase) : (s.start p).len = s.len := rfl

/-! ### State.answer (R227) -/

@[simp] theorem State.answer_status (s : State) (v : Word) : (s.answer v).status = s.status := rfl
@[simp] theorem State.answer_err (s : State) (v : Word) : (s.answer v).err = s.err := rfl
@[simp] theorem State.answer_width (s : State) (v : Word) : (s.answer v).width = s.width := rfl
@[simp] theorem State.answer_height (s : State) (v : Word) : (s.answer v).height = s.height := rfl
@[simp] theorem State.answer_msglen (s : State) (v : Word) : (s.answer v).msglen = s.msglen := rfl
@[simp] theorem State.answer_capacity (s : State) (v : Word) : (s.answer v).capacity = s.capacity := rfl
@[simp] theorem State.answer_phase (s : State) (v : Word) : (s.answer v).phase = s.phase := rfl
@[simp] theorem State.answer_cx (s : State) (v : Word) : (s.answer v).cx = s.cx := rfl
@[simp] theorem State.answer_cy (s : State) (v : Word) : (s.answer v).cy = s.cy := rfl
@[simp] theorem State.answer_ch (s : State) (v : Word) : (s.answer v).ch = s.ch := rfl
@[simp] theorem State.answer_byteIdx (s : State) (v : Word) : (s.answer v).byteIdx = s.byteIdx := rfl
@[simp] theorem State.answer_bitIdx (s : State) (v : Word) : (s.answer v).bitIdx = s.bitIdx := rfl
@[simp] theorem State.answer_rbyte (s : State) (v : Word) : (s.answer v).rbyte = s.rbyte := rfl
@[simp] theorem State.answer_hdr (s : State) (v : Word) : (s.answer v).hdr = s.hdr := rfl
@[simp] theorem State.answer_eos (s : State) (v : Word) : (s.answer v).eos = s.eos := rfl
@[simp] theorem State.answer_pix (s : State) (v : Word) : (s.answer v).pix = s.pix := rfl
@[simp] theorem State.answer_msg (s : State) (v : Word) : (s.answer v).msg = s.msg := rfl
@[simp] theorem State.answer_script (s : State) (v : Word) : (s.answer v).script = s.script := rfl
@[simp] theorem State.answer_reply (s : State) (v : Word) : (s.answer v).reply = some v := rfl
@[simp] theorem State.answer_draws (s : State) (v : Word) : (s.answer v).draws = s.draws := rfl
@[simp] theorem State.answer_w (s : State) (v : Word) : (s.answer v).w = s.w := rfl
@[simp] theorem State.answer_h (s : State) (v : Word) : (s.answer v).h = s.h := rfl
@[simp] theorem State.answer_len (s : State) (v : Word) : (s.answer v).len = s.len := rfl

/-! ### State.take (R98) -/

@[simp] theorem State.take_status (s : State) (rest : List HostLine) : (s.take rest).status = s.status := rfl
@[simp] theorem State.take_err (s : State) (rest : List HostLine) : (s.take rest).err = s.err := rfl
@[simp] theorem State.take_width (s : State) (rest : List HostLine) : (s.take rest).width = s.width := rfl
@[simp] theorem State.take_height (s : State) (rest : List HostLine) : (s.take rest).height = s.height := rfl
@[simp] theorem State.take_msglen (s : State) (rest : List HostLine) : (s.take rest).msglen = s.msglen := rfl
@[simp] theorem State.take_capacity (s : State) (rest : List HostLine) : (s.take rest).capacity = s.capacity := rfl
@[simp] theorem State.take_phase (s : State) (rest : List HostLine) : (s.take rest).phase = s.phase := rfl
@[simp] theorem State.take_cx (s : State) (rest : List HostLine) : (s.take rest).cx = s.cx := rfl
@[simp] theorem State.take_cy (s : State) (rest : List HostLine) : (s.take rest).cy = s.cy := rfl
@[simp] theorem State.take_ch (s : State) (rest : List HostLine) : (s.take rest).ch = s.ch := rfl
@[simp] theorem State.take_byteIdx (s : State) (rest : List HostLine) : (s.take rest).byteIdx = s.byteIdx := rfl
@[simp] theorem State.take_bitIdx (s : State) (rest : List HostLine) : (s.take rest).bitIdx = s.bitIdx := rfl
@[simp] theorem State.take_rbyte (s : State) (rest : List HostLine) : (s.take rest).rbyte = s.rbyte := rfl
@[simp] theorem State.take_hdr (s : State) (rest : List HostLine) : (s.take rest).hdr = s.hdr := rfl
@[simp] theorem State.take_eos (s : State) (rest : List HostLine) : (s.take rest).eos = s.eos := rfl
@[simp] theorem State.take_pix (s : State) (rest : List HostLine) : (s.take rest).pix = s.pix := rfl
@[simp] theorem State.take_msg (s : State) (rest : List HostLine) : (s.take rest).msg = s.msg := rfl
@[simp] theorem State.take_script (s : State) (rest : List HostLine) : (s.take rest).script = rest := rfl
@[simp] theorem State.take_reply (s : State) (rest : List HostLine) : (s.take rest).reply = none := rfl
@[simp] theorem State.take_draws (s : State) (rest : List HostLine) : (s.take rest).draws = s.draws := rfl
@[simp] theorem State.take_w (s : State) (rest : List HostLine) : (s.take rest).w = s.w := rfl
@[simp] theorem State.take_h (s : State) (rest : List HostLine) : (s.take rest).h = s.h := rfl
@[simp] theorem State.take_len (s : State) (rest : List HostLine) : (s.take rest).len = s.len := rfl

/-! ### State.encoded (R177) -/

@[simp] theorem State.encoded_status (s : State) : (s.encoded).status = .done := rfl
@[simp] theorem State.encoded_err (s : State) : (s.encoded).err = .none := rfl
@[simp] theorem State.encoded_width (s : State) : (s.encoded).width = s.width := rfl
@[simp] theorem State.encoded_height (s : State) : (s.encoded).height = s.height := rfl
@[simp] theorem State.encoded_msglen (s : State) : (s.encoded).msglen = s.msglen := rfl
@[simp] theorem State.encoded_capacity (s : State) : (s.encoded).capacity = s.capacity := rfl
@[simp] theorem State.encoded_phase (s : State) : (s.encoded).phase = .idle := rfl
@[simp] theorem State.encoded_cx (s : State) : (s.encoded).cx = BitVec.ofNat 16 (carrierPlace s.h (framedBits s.len)).x := rfl
@[simp] theorem State.encoded_cy (s : State) : (s.encoded).cy = BitVec.ofNat 16 (carrierPlace s.h (framedBits s.len)).y := rfl
@[simp] theorem State.encoded_ch (s : State) : (s.encoded).ch = BitVec.ofNat 2 (carrierPlace s.h (framedBits s.len)).c := rfl
@[simp] theorem State.encoded_byteIdx (s : State) : (s.encoded).byteIdx = BitVec.ofNat 32 ((framedBits s.len) / 8) := rfl
@[simp] theorem State.encoded_bitIdx (s : State) : (s.encoded).bitIdx = BitVec.ofNat 3 ((framedBits s.len) % 8) := rfl
@[simp] theorem State.encoded_rbyte (s : State) : (s.encoded).rbyte = s.rbyte := rfl
@[simp] theorem State.encoded_hdr (s : State) : (s.encoded).hdr = splitToBytes s.msglen.val := rfl
@[simp] theorem State.encoded_eos (s : State) : (s.encoded).eos = true := rfl
@[simp] theorem State.encoded_pix (s : State) : (s.encoded).pix = s.pix := rfl
@[simp] theorem State.encoded_msg (s : State) : (s.encoded).msg = s.msg := rfl
@[simp] theorem State.encoded_script (s : State) : (s.encoded).script = s.script := rfl
@[simp] theorem State.encoded_reply (s : State) : (s.encoded).reply = s.reply := rfl
@[simp] theorem State.encoded_draws (s : State) : (s.encoded).draws = s.draws := rfl
@[simp] theorem State.encoded_w (s : State) : (s.encoded).w = s.w := rfl
@[simp] theorem State.encoded_h (s : State) : (s.encoded).h = s.h := rfl
@[simp] theorem State.encoded_len (s : State) : (s.encoded).len = s.len := rfl

/-! ### State.decoded (R197) -/

@[simp] theorem State.decoded_status (s : State) (h : Header) (r : Byte) : (s.decoded h r).status = .done := rfl
@[simp] theorem State.decoded_err (s : State) (h : Header) (r : Byte) : (s.decoded h r).err = .none := rfl
@[simp] theorem State.decoded_width (s : State) (h : Header) (r : Byte) : (s.decoded h r).width = s.width := rfl
@[simp] theorem State.decoded_height (s : State) (h : Header) (r : Byte) : (s.decoded h r).height = s.height := rfl
@[simp] theorem State.decoded_msglen (s : State) (h : Header) (r : Byte) : (s.decoded h r).msglen = { val := combineToInt h, held := true } := rfl
@[simp] theorem State.decoded_capacity (s : State) (h : Header) (r : Byte) : (s.decoded h r).capacity = s.capacity := rfl
@[simp] theorem State.decoded_phase (s : State) (h : Header) (r : Byte) : (s.decoded h r).phase = .idle := rfl
@[simp] theorem State.decoded_cx (s : State) (h : Header) (r : Byte) : (s.decoded h r).cx = BitVec.ofNat 16 (carrierPlace s.h (framedBits (combineToInt h).toNat)).x := rfl
@[simp] theorem State.decoded_cy (s : State) (h : Header) (r : Byte) : (s.decoded h r).cy = BitVec.ofNat 16 (carrierPlace s.h (framedBits (combineToInt h).toNat)).y := rfl
@[simp] theorem State.decoded_ch (s : State) (h : Header) (r : Byte) : (s.decoded h r).ch = BitVec.ofNat 2 (carrierPlace s.h (framedBits (combineToInt h).toNat)).c := rfl
@[simp] theorem State.decoded_byteIdx (s : State) (h : Header) (r : Byte) : (s.decoded h r).byteIdx = BitVec.ofNat 32 ((framedBits (combineToInt h).toNat) / 8) := rfl
@[simp] theorem State.decoded_bitIdx (s : State) (h : Header) (r : Byte) : (s.decoded h r).bitIdx = BitVec.ofNat 3 ((framedBits (combineToInt h).toNat) % 8) := rfl
@[simp] theorem State.decoded_rbyte (s : State) (h : Header) (r : Byte) : (s.decoded h r).rbyte = r := rfl
@[simp] theorem State.decoded_hdr (s : State) (h : Header) (r : Byte) : (s.decoded h r).hdr = h := rfl
@[simp] theorem State.decoded_eos (s : State) (h : Header) (r : Byte) : (s.decoded h r).eos = s.eos := rfl
@[simp] theorem State.decoded_pix (s : State) (h : Header) (r : Byte) : (s.decoded h r).pix = s.pix := rfl
@[simp] theorem State.decoded_msg (s : State) (h : Header) (r : Byte) : (s.decoded h r).msg = s.msg := rfl
@[simp] theorem State.decoded_script (s : State) (h : Header) (r : Byte) : (s.decoded h r).script = s.script := rfl
@[simp] theorem State.decoded_reply (s : State) (h : Header) (r : Byte) : (s.decoded h r).reply = s.reply := rfl
@[simp] theorem State.decoded_draws (s : State) (h : Header) (r : Byte) : (s.decoded h r).draws = s.draws := rfl
@[simp] theorem State.decoded_w (s : State) (h : Header) (r : Byte) : (s.decoded h r).w = s.w := rfl
@[simp] theorem State.decoded_h (s : State) (h : Header) (r : Byte) : (s.decoded h r).h = s.h := rfl
@[simp] theorem State.decoded_len (s : State) (h : Header) (r : Byte) : (s.decoded h r).len = (combineToInt h).toNat := rfl

/-! ### State.encStart (R178) -/

@[simp] theorem State.encStart_status (s : State) : (s.encStart).status = .busy := rfl
@[simp] theorem State.encStart_err (s : State) : (s.encStart).err = .none := rfl
@[simp] theorem State.encStart_width (s : State) : (s.encStart).width = s.width := rfl
@[simp] theorem State.encStart_height (s : State) : (s.encStart).height = s.height := rfl
@[simp] theorem State.encStart_msglen (s : State) : (s.encStart).msglen = s.msglen := rfl
@[simp] theorem State.encStart_capacity (s : State) : (s.encStart).capacity = s.capacity := rfl
@[simp] theorem State.encStart_phase (s : State) : (s.encStart).phase = .encRun := rfl
@[simp] theorem State.encStart_cx (s : State) : (s.encStart).cx = BitVec.ofNat 16 (carrierPlace s.h 0).x := rfl
@[simp] theorem State.encStart_cy (s : State) : (s.encStart).cy = BitVec.ofNat 16 (carrierPlace s.h 0).y := rfl
@[simp] theorem State.encStart_ch (s : State) : (s.encStart).ch = BitVec.ofNat 2 (carrierPlace s.h 0).c := rfl
@[simp] theorem State.encStart_byteIdx (s : State) : (s.encStart).byteIdx = 0 := rfl
@[simp] theorem State.encStart_bitIdx (s : State) : (s.encStart).bitIdx = 0 := rfl
@[simp] theorem State.encStart_rbyte (s : State) : (s.encStart).rbyte = s.rbyte := rfl
@[simp] theorem State.encStart_hdr (s : State) : (s.encStart).hdr = splitToBytes s.msglen.val := rfl
@[simp] theorem State.encStart_eos (s : State) : (s.encStart).eos = endOfStream 0 s.msglen.val := rfl
@[simp] theorem State.encStart_pix (s : State) : (s.encStart).pix = s.pix := rfl
@[simp] theorem State.encStart_msg (s : State) : (s.encStart).msg = s.msg := rfl
@[simp] theorem State.encStart_script (s : State) : (s.encStart).script = s.script := rfl
@[simp] theorem State.encStart_reply (s : State) : (s.encStart).reply = s.reply := rfl
@[simp] theorem State.encStart_draws (s : State) : (s.encStart).draws = s.draws := rfl
@[simp] theorem State.encStart_w (s : State) : (s.encStart).w = s.w := rfl
@[simp] theorem State.encStart_h (s : State) : (s.encStart).h = s.h := rfl
@[simp] theorem State.encStart_len (s : State) : (s.encStart).len = s.len := rfl

/-! ### State.resetBlock (R270): the reset state but for the model's own fields -/

theorem State.resetBlock_eq (s : State) :
    s.resetBlock = { State.reset with script := s.script, draws := s.draws } := rfl

end Sys2Proof.Machine
end

