-- ==== Sys2Proof/Laws/Ops.lean ====
section
/-! SUPPORT. What the shared operations do, once each: the key of a channel byte, pixel and message accesses, the traversal,
the operands, and the loops of ENC and DEC. The provers cite these instead of unfolding. -/

namespace Sys2Proof.Machine

/-! ## Keys and pixel accesses -/

/-- The key of (x, y, c) determines it, for 16-bit rows and 2-bit channels. -/
theorem pixKey_inj {x y c x' y' c' : Nat} (hy : y < 65536) (hy' : y' < 65536) (hc : c < 4) (hc' : c' < 4)
    (h : pixKey x y c = pixKey x' y' c') : x = x' ∧ y = y' ∧ c = c' := by
  unfold pixKey at h
  omega

/-- The key of a channel byte is in the grid exactly when its pixel is (R61). -/
theorem pixKeyInGrid_pixKey (w h : Nat) {x y c : Nat} (hy : y < 65536) (hc : c < 4) :
    pixKeyInGrid w h (pixKey x y c) = true ↔ x < w ∧ y < h := by
  have h1 : pixKey x y c / 4 = x * 65536 + y := by unfold pixKey; omega
  have h2 : (x * 65536 + y) / 65536 = x := by omega
  have h3 : (x * 65536 + y) % 65536 = y := by omega
  simp [pixKeyInGrid, h1, h2, h3]

theorem State.inGrid_iff (s : State) (x y : Nat) : s.inGrid x y = true ↔ x < s.w ∧ y < s.h := by
  simp [State.inGrid]

theorem State.h_lt (s : State) : s.h < 65536 := s.height.val.isLt
theorem State.w_lt (s : State) : s.w < 65536 := s.width.val.isLt
theorem State.len_lt (s : State) : s.len < 2 ^ 32 := s.msglen.val.isLt

/-- A pixel read depends on nothing but WIDTH, HEIGHT and PIX (R63). -/
theorem State.pixByte_congr {s t : State} (hw : t.w = s.w) (hh : t.h = s.h) (hp : t.pix = s.pix) (x y c : Nat) :
    t.pixByte x y c = s.pixByte x y c := by
  simp [State.pixByte, State.inGrid, hw, hh, hp]

/-- What a pixel read gives after a pixel write in bounds (R64). -/
theorem State.pixByte_pixStore (s : State) {x y c x' y' c' : Nat} (v : Byte) (hy : y < 65536) (hc : c < 4)
    (hy' : y' < 65536) (hc' : c' < 4) (hin : s.inGrid x y = true) :
    (s.pixStore x y c v).pixByte x' y' c' = if (x', y', c') = (x, y, c) then some v else s.pixByte x' y' c' := by
  have hg : (s.pixStore x y c v).inGrid x' y' = s.inGrid x' y' := rfl
  by_cases he : (x', y', c') = (x, y, c)
  · obtain ⟨rfl, rfl, rfl⟩ : x' = x ∧ y' = y ∧ c' = c := by simpa using he
    simp [State.pixByte, hg, hin]
  · have hk : pixKey x' y' c' ≠ pixKey x y c := by
      intro hk
      obtain ⟨rfl, rfl, rfl⟩ := pixKey_inj hy' hy hc' hc hk
      exact he rfl
    simp only [State.pixByte, hg, State.pixStore_pix, Memory.read_write_other _ _ hk, if_neg he]

/-- A message read after a message write (R67). -/
theorem State.msgByte_msgStore (s : State) (i j : Nat) (v : Byte) :
    (s.msgStore i v).msgByte j = if j = i then some v else s.msgByte j :=
  Memory.read_write s.msg i j v

/-! ## The traversal -/

theorem carrierPlace_zero (h : Nat) : carrierPlace h 0 = { x := 0, y := 0, c := 0 } := by
  simp [carrierPlace, pixelOf]

/-- One carousel advance goes from carrier bit k to carrier bit k + 1 (R145, R146). -/
theorem advanceCarousel_carrierPlace (h k : Nat) (hh : 0 < h) :
    advanceCarousel h (carrierPlace h k) = carrierPlace h (k + 1) := by
  unfold advanceCarousel carrierPlace pixelOf
  by_cases hc : k % 3 + 1 = 3
  · have h3 : (k + 1) / 3 = k / 3 + 1 := by omega
    have hm : (k + 1) % 3 = 0 := by omega
    simp only [hc, if_true, advancePixel, h3, hm]
    by_cases hy : k / 3 % h + 1 = h
    · have hd : (k / 3 + 1) / h = k / 3 / h + 1 := by
        have : k / 3 + 1 = h * (k / 3 / h + 1) := by
          have := Nat.div_add_mod (k / 3) h
          rw [Nat.mul_add]
          omega
        rw [this, Nat.mul_div_cancel_left _ hh]
      have hr : (k / 3 + 1) % h = 0 := by
        rw [Nat.add_mod]
        rcases Nat.lt_or_ge 1 h with h1 | h1
        · rw [Nat.mod_eq_of_lt h1, hy, Nat.mod_self]
        · have : h = 1 := by omega
          subst this
          simp [Nat.mod_one]
      simp [hy, hd, hr]
    · have hlt : k / 3 % h + 1 < h := by
        have := Nat.mod_lt (k / 3) hh
        omega
      have hd : (k / 3 + 1) / h = k / 3 / h := by
        have := Nat.div_add_mod (k / 3) h
        rw [Nat.div_eq_of_lt_le] <;> rw [Nat.mul_comm]
        · omega
        · rw [Nat.mul_add]; omega
      have hr : (k / 3 + 1) % h = k / 3 % h + 1 := by
        have := Nat.div_add_mod (k / 3 + 1) h
        have := Nat.div_add_mod (k / 3) h
        rw [hd] at *
        omega
      simp [hy, hd, hr]
  · have h3 : (k + 1) / 3 = k / 3 := by omega
    have hm : (k + 1) % 3 = k % 3 + 1 := by omega
    simp [hc, h3, hm]

/-- A carrier bit of the grid lies at a pixel of the grid, in a channel below alpha (R145). -/
theorem carrierPlace_inGrid (w h k : Nat) (hk : k < 3 * w * h) :
    (carrierPlace h k).x < w ∧ (carrierPlace h k).y < h ∧ (carrierPlace h k).c < 3 := by
  have hh : 0 < h := by
    rcases Nat.eq_zero_or_pos h with rfl | hh
    · simp at hk
    · exact hh
  refine ⟨?_, Nat.mod_lt _ hh, Nat.mod_lt _ (by omega)⟩
  show k / 3 / h < w
  rw [Nat.div_lt_iff_lt_mul hh]
  have : 3 * w * h = 3 * (w * h) := by ring
  omega

/-- The carrier-bit number of a place, and the place of that number (R177's k). -/
theorem carrierPlace_of (h x y c : Nat) (hy : y < h) (hc : c < 3) :
    carrierPlace h (3 * (x * h + y) + c) = { x := x, y := y, c := c } := by
  have h3 : (3 * (x * h + y) + c) / 3 = x * h + y := by omega
  have hm : (3 * (x * h + y) + c) % 3 = c := by omega
  have hd : (x * h + y) / h = x := by
    rw [Nat.add_comm, Nat.add_mul_div_right _ _ (by omega), Nat.div_eq_of_lt hy, Nat.zero_add]
  have hr : (x * h + y) % h = y := by
    rw [Nat.add_comm, Nat.add_mul_mod_self_right, Nat.mod_eq_of_lt hy]
  simp [carrierPlace, pixelOf, h3, hm, hd, hr]

/-- Different carrier bits lie at different places. -/
theorem carrierPlace_inj (h k j : Nat) (he : carrierPlace h k = carrierPlace h j) : k = j := by
  simp only [carrierPlace, pixelOf, Place.mk.injEq] at he
  obtain ⟨h1, h2, h3⟩ := he
  have hk := Nat.div_add_mod (k / 3) h
  have hj := Nat.div_add_mod (j / 3) h
  rw [h1, h2] at hk
  omega

/-! ## Carriers and the framed message -/

theorem State.carriers_eq (s : State) : s.carriers = 3 * s.w * s.h := rfl

/-- A carrier byte depends on nothing but WIDTH, HEIGHT and PIX (R191). -/
theorem State.carrier_congr {s t : State} (hw : t.w = s.w) (hh : t.h = s.h) (hp : t.pix = s.pix) (k : Nat) :
    t.carrier k = s.carrier k := by
  simp only [State.carrier, hh, State.pixByte_congr hw hh hp]

theorem State.carrierBit_congr {s t : State} (hw : t.w = s.w) (hh : t.h = s.h) (hp : t.pix = s.pix) (k : Nat) :
    t.carrierBit k = s.carrierBit k := by
  simp only [State.carrierBit, State.carrier_congr hw hh hp]

/-- `carriersHeld` says that the channel bytes of the first n carrier bits hold values. -/
theorem State.carriersHeld_iff (s : State) (n : Nat) : s.carriersHeld n = true ↔ ∀ k < n, s.carrier k ≠ none := by
  induction n with
  | zero => simp [State.carriersHeld]
  | succ n ih =>
    simp only [State.carriersHeld, Bool.and_eq_true, ih, Option.isSome_iff_ne_none, Nat.forall_lt_succ_right]

/-- `carriersHeld` depends on nothing but WIDTH, HEIGHT and PIX. -/
theorem State.carriersHeld_congr {s t : State} (hw : t.w = s.w) (hh : t.h = s.h) (hp : t.pix = s.pix) (n : Nat) :
    t.carriersHeld n = s.carriersHeld n := by
  rw [Bool.eq_iff_iff, State.carriersHeld_iff, State.carriersHeld_iff]
  simp only [State.carrier_congr hw hh hp]

/-- The whole pixels of n carrier bits hold the n bytes those lie in. -/
theorem le_pixelBytes (n : Nat) : n ≤ pixelBytes n := by
  unfold pixelBytes
  omega

/-- More carrier bits need no fewer pixels. -/
theorem pixelBytes_mono {m n : Nat} (h : m ≤ n) : pixelBytes m ≤ pixelBytes n := by
  unfold pixelBytes
  omega

/-- A grid with room for n carrier bits has their whole pixels. -/
theorem State.pixelBytes_le_carriers {s : State} {n : Nat} (h : n ≤ s.carriers) : pixelBytes n ≤ s.carriers := by
  have : s.carriers = 3 * (s.w * s.h) := Nat.mul_assoc 3 s.w s.h
  unfold pixelBytes
  omega

/-- A framed bit depends on nothing but MSGLEN and MSG (R172). -/
theorem State.framedBit_congr {s t : State} (hl : t.msglen = s.msglen) (hm : t.msg = s.msg) (k : Nat) :
    t.framedBit k = s.framedBit k := by
  simp only [State.framedBit, State.framedByte, State.msgByte, hl, hm]

/-- Assembled bits depend on nothing but the carrier bits (R192). -/
theorem State.assemble_congr {s t : State} (j : Nat) (n : Nat)
    (h : ∀ i < n, t.carrierBit (8 * j + i) = s.carrierBit (8 * j + i)) : t.assemble j n = s.assemble j n := by
  induction n with
  | zero => rfl
  | succ n ih =>
    simp only [State.assemble, ih (fun i hi => h i (by omega)), h n (by omega)]

theorem State.carrierByte_congr {s t : State} (j : Nat)
    (h : ∀ i < 8, t.carrierBit (8 * j + i) = s.carrierBit (8 * j + i)) : t.carrierByte j = s.carrierByte j :=
  State.assemble_congr j 8 h

/-- The header depends on nothing but carrier bits 0 to 31 (R193). -/
theorem State.carrierHeader_congr {s t : State} (h : ∀ k < 32, t.carrierBit k = s.carrierBit k) :
    t.carrierHeader = s.carrierHeader := by
  simp only [State.carrierHeader, State.carrierByte_congr (s := s) (t := t) 0 (fun i hi => h _ (by omega)),
    State.carrierByte_congr (s := s) (t := t) 1 (fun i hi => h _ (by omega)),
    State.carrierByte_congr (s := s) (t := t) 2 (fun i hi => h _ (by omega)),
    State.carrierByte_congr (s := s) (t := t) 3 (fun i hi => h _ (by omega))]

/-! ## The loops of ENC and DEC -/

/-- What `embedBit` answers: the state with the one channel byte written (R173). -/
theorem State.embedBit_cases {s t : State} {k : Nat} (h : s.embedBit k = some t) :
    ∃ v b, s.carrier k = some v ∧ s.framedBit k = some b ∧
      t = s.pixStore (carrierPlace s.h k).x (carrierPlace s.h k).y (carrierPlace s.h k).c (setLSB v b) := by
  unfold State.embedBit at h
  split at h
  · rename_i v b hv hb
    exact ⟨v, b, hv, hb, (Option.some.inj h).symm⟩
  · cases h

/-- `embed` changes PIX alone (R170). -/
theorem State.embed_frame {s t : State} {n : Nat} (h : s.embed n = some t) : t = { s with pix := t.pix } := by
  induction n generalizing t with
  | zero => cases h; rfl
  | succ n ih =>
    simp only [State.embed] at h
    split at h
    · rename_i r hr
      obtain ⟨v, b, -, -, rfl⟩ := State.embedBit_cases h
      have := ih hr
      rw [this]
      rfl
    · cases h

/-- `extract` changes MSG alone (R197). -/
theorem State.extract_frame {s t : State} {n : Nat} (h : s.extract n = some t) : t = { s with msg := t.msg } := by
  induction n generalizing t with
  | zero => cases h; rfl
  | succ n ih =>
    simp only [State.extract] at h
    split at h
    · rename_i r v hr hv
      cases h
      have := ih hr
      rw [this]
      rfl
    · cases h

/-- `extract` answers exactly when the carrier bytes of the message hold values, and then the message bytes below n are
those and the others are unchanged (R196, R197). -/
theorem State.extract_spec (s : State) (n : Nat) :
    ((∀ j < n, s.carrierByte (4 + j) ≠ none) → s.extract n ≠ none) ∧
    ∀ t, s.extract n = some t →
      (∀ j < n, t.msgByte j = s.carrierByte (4 + j) ∧ t.msgByte j ≠ none) ∧ ∀ j, n ≤ j → t.msgByte j = s.msgByte j := by
  induction n with
  | zero =>
    refine ⟨fun _ => by simp [State.extract], fun t ht => ?_⟩
    cases ht
    exact ⟨fun j hj => absurd hj (by omega), fun _ _ => rfl⟩
  | succ n ih =>
    constructor
    · intro h
      obtain ⟨t, ht⟩ := Option.ne_none_iff_exists'.mp (ih.1 (fun j hj => h j (by omega)))
      obtain ⟨v, hv⟩ := Option.ne_none_iff_exists'.mp (h n (by omega))
      simp [State.extract, ht, hv]
    · intro t h
      simp only [State.extract] at h
      split at h
      · rename_i r v hr hv
        cases h
        obtain ⟨h1, h2⟩ := ih.2 r hr
        constructor
        · intro j hj
          by_cases hjn : j = n
          · subst hjn
            simp [State.msgByte_msgStore, hv]
          · simpa [State.msgByte_msgStore, hjn] using h1 j (by omega)
        · intro j hj
          rw [State.msgByte_msgStore, if_neg (by omega)]
          exact h2 j (by omega)
      · cases h

end Sys2Proof.Machine
end

