-- ==== Sys2Proof/Laws/Commands.lean ====
section
/-! SUPPORT. What the commands can answer, once each: the loop of ENC, and for CAP, ENC and DEC the cases of their next
states. -/

namespace Sys2Proof.Machine

/-- A carrier byte that holds a value lies in the grid. -/
theorem State.carrier_inGrid {s : State} {k : Nat} {v : Byte} (h : s.carrier k = some v) :
    s.inGrid (carrierPlace s.h k).x (carrierPlace s.h k).y = true ∧ Memory.read s.pix (s.carrierKey k) = some v := by
  unfold State.carrier State.pixByte at h
  split at h
  · rename_i hg
    exact ⟨hg, h⟩
  · cases h

/-- Different carrier bits have different keys. -/
theorem State.carrierKey_inj {s : State} (hh : 0 < s.h) {k j : Nat} (h : s.carrierKey k = s.carrierKey j) : k = j := by
  have hlt := s.h_lt
  have hy : ∀ k, (carrierPlace s.h k).y < 65536 := fun k => Nat.lt_trans (Nat.mod_lt _ hh) hlt
  have hc : ∀ k, (carrierPlace s.h k).c < 4 := fun k => Nat.lt_of_lt_of_le (Nat.mod_lt _ (by omega)) (by omega)
  obtain ⟨hx, hy', hc'⟩ := pixKey_inj (hy k) (hy j) (hc k) (hc j) h
  apply carrierPlace_inj s.h
  cases hk : carrierPlace s.h k
  cases hj : carrierPlace s.h j
  simp_all

/-- `embed` answers exactly when the carrier bytes and framed bits it needs hold values; then carrier byte k < n is
`setLSB` of the old one and `framedBit(k)`, and every byte elsewhere is unchanged (R173, R176). -/
theorem State.embed_spec (s : State) (n : Nat) :
    ((∀ k < n, s.carrier k ≠ none ∧ s.framedBit k ≠ none) → s.embed n ≠ none) ∧
    ∀ t, s.embed n = some t →
      (∀ k < n, ∃ v b, s.carrier k = some v ∧ s.framedBit k = some b ∧ t.carrier k = some (setLSB v b)) ∧
      (∀ k, n ≤ k → t.carrier k = s.carrier k) ∧
      ∀ a, (∀ k < n, a ≠ s.carrierKey k) → Memory.read t.pix a = Memory.read s.pix a := by
  induction n with
  | zero =>
    refine ⟨fun _ => by simp [State.embed], fun t ht => ?_⟩
    cases ht
    exact ⟨fun k hk => absurd hk (by omega), fun _ _ => rfl, fun _ _ => rfl⟩
  | succ n ih =>
    constructor
    · intro h
      obtain ⟨t, ht⟩ := Option.ne_none_iff_exists'.mp (ih.1 (fun k hk => h k (by omega)))
      obtain ⟨hv, hb⟩ := h n (by omega)
      have hf := State.embed_frame ht
      have h1 : t.carrier n = s.carrier n := (ih.2 t ht).2.1 n (Nat.le_refl n)
      have h2 : t.framedBit n = s.framedBit n := State.framedBit_congr (by rw [hf]) (by rw [hf]) n
      obtain ⟨v, hv⟩ := Option.ne_none_iff_exists'.mp hv
      obtain ⟨b, hb⟩ := Option.ne_none_iff_exists'.mp hb
      simp [State.embed, ht, State.embedBit, h1, h2, hv, hb]
    · intro t h
      simp only [State.embed] at h
      split at h
      · rename_i r hr
        obtain ⟨i1, i2, i3⟩ := ih.2 r hr
        have hf := State.embed_frame hr
        have hh : r.h = s.h := by rw [hf]; rfl
        obtain ⟨v, b, hv, hb, rfl⟩ := State.embedBit_cases h
        obtain ⟨hg, hread⟩ := State.carrier_inGrid hv
        have hpos : 0 < r.h := by
          have := (State.inGrid_iff r _ _).mp hg
          omega
        have hkey : ∀ k, r.carrierKey k = s.carrierKey k := fun k => by simp [State.carrierKey, hh]
        have hcar : ∀ k, k ≠ n → (r.pixStore (carrierPlace r.h n).x (carrierPlace r.h n).y (carrierPlace r.h n).c
            (setLSB v b)).carrier k = r.carrier k := by
          intro k hk
          have hne : r.carrierKey k ≠ r.carrierKey n := fun he => hk (State.carrierKey_inj hpos he)
          show (if r.inGrid _ _ = true then Memory.read (Memory.write r.pix (r.carrierKey n) _) (r.carrierKey k) else none) = _
          rw [Memory.read_write_other _ _ hne]
          rfl
        refine ⟨fun k hk => ?_, fun k hk => ?_, fun a ha => ?_⟩
        · by_cases hkn : k = n
          · subst hkn
            refine ⟨v, b, ?_, ?_, ?_⟩
            · rw [← i2 k (Nat.le_refl k)]; exact hv
            · rw [← hb]; exact (State.framedBit_congr (by rw [hf]) (by rw [hf]) k).symm
            · show (if r.inGrid _ _ = true then Memory.read (Memory.write r.pix (r.carrierKey k) _) (r.carrierKey k) else none) = _
              rw [Memory.read_write_same]
              exact if_pos hg
          · rw [hcar k hkn]
            exact i1 k (by omega)
        · rw [hcar k (by omega)]
          exact i2 k (by omega)
        · show Memory.read (Memory.write r.pix (r.carrierKey n) _) a = _
          rw [Memory.read_write_other _ _ (by rw [hkey]; exact ha n (by omega))]
          exact i3 a (fun k hk => ha k (by omega))
      · cases h

/-- `embed` keeps PIX in canonical form. -/
theorem State.embed_wf {s t : State} {n : Nat} (hw : Memory.wf s.pix = true) (h : s.embed n = some t) :
    Memory.wf t.pix = true := by
  induction n generalizing t with
  | zero => cases h; exact hw
  | succ n ih =>
    simp only [State.embed] at h
    split at h
    · rename_i r hr
      obtain ⟨v, b, -, -, rfl⟩ := State.embedBit_cases h
      exact Memory.wf_write _ _ _ (ih hr)
    · cases h

/-- `extract` keeps MSG in canonical form. -/
theorem State.extract_wf {s t : State} {n : Nat} (hw : Memory.wf s.msg = true) (h : s.extract n = some t) :
    Memory.wf t.msg = true := by
  induction n generalizing t with
  | zero => cases h; exact hw
  | succ n ih =>
    simp only [State.extract] at h
    split at h
    · rename_i r v hr hv
      cases h
      exact Memory.wf_write _ _ _ (ih hr)
    · cases h

/-- The next states of CAP (R132). -/
theorem execCap_cases {s t : State} (h : execCap s = .next t) :
    s.gridHeld = true ∧
      t = { s.begin.complete with
            capacity := { val := BitVec.ofNat 32 (maxEncodeSize s.w s.h), held := true } } := by
  unfold execCap at h
  split at h
  · rename_i hg
    exact ⟨hg, by injection h with h; exact h.symm⟩
  · cases h

/-- The next states of ENC (R177): CapacityExceeded, or the bits embedded, the pixels it takes as operands holding values
(R231). -/
theorem execEnc_cases {s t : State} (h : execEnc s = .next t) :
    s.encHeld = true ∧
      ((s.admits = false ∧ t = s.begin.raise .capacityExceeded) ∨
       (s.admits = true ∧ s.carriersHeld (pixelBytes (framedBits s.len)) = true ∧
          ∃ r, s.embed (framedBits s.len) = some r ∧ t = r.encoded)) := by
  unfold execEnc at h
  split at h
  · cases h
  · rename_i hheld
    split at h
    · cases h
    · split at h
      · rename_i ha
        exact ⟨by simpa using hheld, .inl ⟨ha, by injection h with h; exact h.symm⟩⟩
      · rename_i ha
        split at h
        · cases h
        · rename_i hp
          split at h
          · rename_i r hr
            exact ⟨by simpa using hheld,
              .inr ⟨by simpa using ha, by simpa using hp, r, hr, by injection h with h; exact h.symm⟩⟩
          · cases h

/-- The next states of DEC (R200): MalformedCarrier at the header check or at the bound check, or the message read, the
pixels it takes as operands holding values (R231). -/
theorem execDec_cases {s t : State} (h : execDec s = .next t) :
    s.gridHeld = true ∧
      ((s.holdsHeader = false ∧ t = s.begin.failDecode) ∨
       (s.holdsHeader = true ∧ s.carriersHeld (pixelBytes 32) = true ∧ ∃ hd, s.carrierHeader = some hd ∧
          ((s.holdsFramed (combineToInt hd).toNat = false ∧ t = (s.begin.decodedTo hd 0 hd.b3).failDecode) ∨
           (s.holdsFramed (combineToInt hd).toNat = true ∧
              s.carriersHeld (pixelBytes (framedBits (combineToInt hd).toNat)) = true ∧ ∃ r b,
              s.extract (combineToInt hd).toNat = some r ∧ s.carrierByte (3 + (combineToInt hd).toNat) = some b ∧
              t = r.decoded hd b)))) := by
  unfold execDec at h
  split at h
  · cases h
  · rename_i hheld
    have hheld : s.gridHeld = true := by simpa using hheld
    split at h
    · rename_i hh
      exact ⟨hheld, .inl ⟨hh, by injection h with h; exact h.symm⟩⟩
    · rename_i hh
      have hh : s.holdsHeader = true := by simpa using hh
      split at h
      · cases h
      · rename_i hp
        have hp : s.carriersHeld (pixelBytes 32) = true := by simpa using hp
        split at h
        · cases h
        · rename_i hd hhd
          simp only at h
          split at h
          · cases h
          · split at h
            · rename_i hf
              exact ⟨hheld, .inr ⟨hh, hp, hd, hhd, .inl ⟨hf, by injection h with h; exact h.symm⟩⟩⟩
            · rename_i hf
              split at h
              · cases h
              · rename_i hq
                split at h
                · rename_i r b hr hb
                  exact ⟨hheld, .inr ⟨hh, hp, hd, hhd, .inr ⟨by simpa using hf, by simpa using hq, r, b, hr, hb,
                    by injection h with h; exact h.symm⟩⟩⟩
                · cases h

/-- No length lies beyond a message buffer of the default size (R33). -/
theorem msgbuf_ok (n : Word) : ¬ Config.msgbufBytes < n.toNat := by
  have := n.isLt
  unfold Config.msgbufBytes
  omega

theorem msgbuf_len (s : State) : ¬ Config.msgbufBytes < s.len := msgbuf_ok s.msglen.val

/-- The framed bits of a message whose bytes hold values hold values (R172). -/
theorem State.framedBit_ne_none {s : State} (h : ∀ j < s.len, s.msgByte j ≠ none) {k : Nat}
    (hk : k < framedBits s.len) : s.framedBit k ≠ none := by
  unfold State.framedBit State.framedByte framedBits at *
  split
  · simp
  · simpa using h _ (by omega)

/-- An admitted ENC whose operands hold values embeds them and completes (R177). -/
theorem execEnc_next {s : State} (h1 : s.encHeld = true) (h2 : s.admits = true) (h3 : s.encReadable) :
    ∃ r, s.embed (framedBits s.len) = some r ∧ execEnc s = .next r.encoded := by
  obtain ⟨r, hr⟩ := Option.ne_none_iff_exists'.mp ((s.embed_spec (framedBits s.len)).1
    (fun k hk => ⟨h3.1 k (Nat.lt_of_lt_of_le hk (le_pixelBytes _)), State.framedBit_ne_none h3.2 hk⟩))
  exact ⟨r, hr, by simp [execEnc, h1, h2, hr, msgbuf_len, (s.carriersHeld_iff _).mpr h3.1]⟩

/-- A DEC whose framed message fits the grid, and whose pixels hold values, reads it and completes (R200). -/
theorem execDec_next {s r : State} {hd : Header} {b : Byte} (h1 : s.gridHeld = true) (h2 : s.holdsHeader = true)
    (h3 : s.carrierHeader = some hd) (h4 : s.holdsFramed (combineToInt hd).toNat = true)
    (hp : s.carriersHeld (pixelBytes (framedBits (combineToInt hd).toNat)) = true)
    (h5 : s.extract (combineToInt hd).toNat = some r) (h6 : s.carrierByte (3 + (combineToInt hd).toNat) = some b) :
    execDec s = .next (r.decoded hd b) := by
  have hq : s.carriersHeld (pixelBytes 32) = true := (s.carriersHeld_iff _).mpr fun k hk =>
    (s.carriersHeld_iff _).mp hp k (Nat.lt_of_lt_of_le hk (pixelBytes_mono (by unfold framedBits; omega)))
  simp [execDec, h1, h2, h3, h4, h5, h6, hp, hq, msgbuf_ok]

/-- A launch of ENC that is accepted was accepted by the command as one transition (R228, R178). -/
theorem launchEnc_cases {s u : State} (h : launchEnc s = .next u) :
    ∃ t, execEnc s = .next t ∧
      ((s.admits = false ∧ u = s.begin.raise .capacityExceeded) ∨
       (s.admits = true ∧ u = { s.begin.start .encRun with
          hdr := splitToBytes s.msglen.val, eos := endOfStream 0 s.msglen.val })) := by
  unfold launchEnc at h
  split at h
  · cases h
  · cases h
  · rename_i t ht
    refine ⟨t, ht, ?_⟩
    split at h
    · rename_i ha
      exact .inl ⟨ha, by injection h with h; exact h.symm⟩
    · rename_i ha
      exact .inr ⟨by simpa using ha, by injection h with h; exact h.symm⟩

/-- A launch of DEC that is accepted was accepted by the command as one transition (R228, R201). -/
theorem launchDec_cases {s u : State} (h : launchDec s = .next u) :
    ∃ t, execDec s = .next t ∧
      ((s.holdsHeader = false ∧ u = s.begin.failDecode) ∨
       (s.holdsHeader = true ∧ u = s.begin.start .decHdr)) := by
  unfold launchDec at h
  split at h
  · cases h
  · cases h
  · rename_i t ht
    refine ⟨t, ht, ?_⟩
    split at h
    · rename_i ha
      exact .inl ⟨ha, by injection h with h; exact h.symm⟩
    · rename_i ha
      exact .inr ⟨by simpa using ha, by injection h with h; exact h.symm⟩

/-- What the ENC micro-step can answer (R178). -/
theorem encMicroStep_cases {s t : State} (h : encMicroStep s = .next t) :
    (endOfStream s.byteIdx s.msglen.val = true ∧ t = s.complete) ∨
    (endOfStream s.byteIdx s.msglen.val = false ∧ s.inGrid s.cx.toNat s.cy.toNat = false ∧ t = s.raise .gridBounds) ∨
    (endOfStream s.byteIdx s.msglen.val = false ∧ s.inGrid s.cx.toNat s.cy.toNat = true ∧ ∃ byte v r,
      s.streamByte = some byte ∧ s.pixByte s.cx.toNat s.cy.toNat s.ch.toNat = some v ∧
      r = (s.pixStore s.cx.toNat s.cy.toNat s.ch.toNat (setLSB v (getBit byte s.bitIdx))).advance ∧
      t = { r with eos := endOfStream r.byteIdx s.msglen.val }) := by
  unfold encMicroStep at h
  split at h
  · rename_i he
    exact .inl ⟨he, by injection h with h; exact h.symm⟩
  · rename_i he
    split at h
    · rename_i hg
      exact .inr (.inl ⟨by simpa using he, hg, by injection h with h; exact h.symm⟩)
    · rename_i hg
      split at h
      · rename_i byte v hb hv
        exact .inr (.inr ⟨by simpa using he, by simpa using hg, byte, v, _, hb, hv, rfl,
          by injection h with h; exact h.symm⟩)
      · cases h

/-- What the DEC micro-step can answer (R201), but for what a completed byte does (`byteAssembled_cases`). -/
theorem decMicroStep_cases {s t : State} (h : decMicroStep s = .next t) :
    (s.phase = .decPay ∧ s.byteIdx.toNat = s.len + 4 ∧ t = s.complete) ∨
    (s.inGrid s.cx.toNat s.cy.toNat = false ∧ t = s.failDecode) ∨
    (¬ (s.phase = .decPay ∧ s.byteIdx.toNat = s.len + 4) ∧ s.inGrid s.cx.toNat s.cy.toNat = true ∧ ∃ v r,
      s.pixByte s.cx.toNat s.cy.toNat s.ch.toNat = some v ∧
      r = { s.advance with rbyte := setBit s.rbyte s.bitIdx (getLSB v) } ∧
      ((s.bitIdx = 7 ∧ byteAssembled r s.byteIdx.toNat = .next t) ∨ (s.bitIdx ≠ 7 ∧ t = r))) := by
  unfold decMicroStep at h
  split at h
  · rename_i he
    exact .inl ⟨he.1, he.2, by injection h with h; exact h.symm⟩
  · rename_i he
    split at h
    · rename_i hg
      exact .inr (.inl ⟨hg, by injection h with h; exact h.symm⟩)
    · rename_i hg
      split at h
      · cases h
      · rename_i v hv
        refine .inr (.inr ⟨he, by simpa using hg, v, _, hv, rfl, ?_⟩)
        simp only at h
        split at h
        · rename_i h7
          exact .inl ⟨h7, h⟩
        · rename_i h7
          exact .inr ⟨h7, by injection h with h; exact h.symm⟩

/-- What a completed byte does (R198, R201). -/
theorem byteAssembled_cases {r t : State} {j : Nat} (h : byteAssembled r j = .next t) :
    (r.phase ≠ .decHdr ∧ t = r.msgStore (j - 4) r.rbyte) ∨
    (r.phase = .decHdr ∧ j + 1 ≠ 4 ∧ t = { r with hdr := setHeaderByte r.hdr j r.rbyte }) ∨
    (r.phase = .decHdr ∧ j + 1 = 4 ∧ ∃ u, u = { r with hdr := setHeaderByte r.hdr j r.rbyte } ∧
      ((u.holdsFramed (combineToInt u.hdr).toNat = false ∧ t = u.failDecode) ∨
       (u.holdsFramed (combineToInt u.hdr).toNat = true ∧
         t = { u with msglen := { val := combineToInt u.hdr, held := true }, phase := .decPay }))) := by
  unfold byteAssembled at h
  split at h
  · rename_i hp
    simp only at h
    split at h
    · rename_i hj
      refine .inr (.inr ⟨hp, hj, _, rfl, ?_⟩)
      split at h
      · cases h
      · split at h
        · rename_i hf
          exact .inl ⟨hf, by injection h with h; exact h.symm⟩
        · rename_i hf
          exact .inr ⟨by simpa using hf, by injection h with h; exact h.symm⟩
    · rename_i hj
      exact .inr (.inl ⟨hp, hj, by injection h with h; exact h.symm⟩)
  · rename_i hp
    exact .inl ⟨hp, by injection h with h; exact h.symm⟩

/-- The engine's turn is the micro-step of its phase, with CH not alpha (R35, R39). -/
theorem microStep_cases {s t : State} (h : microStep s = .next t) :
    s.ch ≠ 3 ∧ ((s.phase = .encRun ∧ encMicroStep s = .next t) ∨
      ((s.phase = .decHdr ∨ s.phase = .decPay) ∧ decMicroStep s = .next t)) := by
  unfold microStep at h
  split at h
  · cases h
  · rename_i hc
    refine ⟨hc, ?_⟩
    split at h
    · cases h
    · rename_i hp; exact .inl ⟨hp, h⟩
    · rename_i hp; exact .inr ⟨.inl hp, h⟩
    · rename_i hp; exact .inr ⟨.inr hp, h⟩

end Sys2Proof.Machine
end

