-- ==== Sys2Proof/Laws/PerInstr.lean ====
section
/-! SUPPORT. Statements made per instruction, about commands as words: the family RoundTrip (R90 to R93). -/

namespace Sys2Proof.Laws.RoundTrip

/-- The command is well formed, its code is a legal one, and decoding its code gives it back. -/
def Statement (i : Instr) : Prop :=
  i.wellFormed = true ∧ commandByteLegal (encode i) = true ∧ decode (encode i) = .ok i

theorem cap : Statement .cap := ⟨rfl, rfl, rfl⟩

theorem enc : Statement .enc := ⟨rfl, rfl, rfl⟩

theorem dec : Statement .dec := ⟨rfl, rfl, rfl⟩

end Sys2Proof.Laws.RoundTrip
end

