-- ==== Sys2Proof/Machine/Script.lean ====
section
/-! DEFINITION. The pseudo-lines of host scripts (R99), each as the lines it stands for, and `CMD m` (R98). -/

namespace Sys2Proof.Machine

/-- `CMD m`: write the code of m to CMD (R98). -/
def HostLine.cmd (i : Instr) : HostLine := .wr 0 ((encode i).setWidth 32)

/-- `GRID W, H` (R99). -/
def scriptGrid (w h : Word) : List HostLine := [.wr 3 w, .wr 4 h]

/-- The four writes of one pixel. -/
def scriptPixel (x y : Nat) (r g b a : Byte) : List HostLine :=
  [ .pixw (BitVec.ofNat 16 x) (BitVec.ofNat 16 y) 0 r, .pixw (BitVec.ofNat 16 x) (BitVec.ofNat 16 y) 1 g,
    .pixw (BitVec.ofNat 16 x) (BitVec.ofNat 16 y) 2 b, .pixw (BitVec.ofNat 16 x) (BitVec.ofNat 16 y) 3 a ]

/-- `FILL r, g, b, a` for a grid of w columns and h rows (R99). -/
def scriptFill (w h : Nat) (r g b a : Byte) : List HostLine :=
  (List.range w).flatMap (fun x => (List.range h).flatMap (fun y => scriptPixel x y r g b a))

/-- The `MSGW` lines of a message from index i on. -/
def scriptBytes (i : Nat) : List Byte → List HostLine
  | [] => []
  | v :: rest => .msgw (BitVec.ofNat 32 i) v :: scriptBytes (i + 1) rest

/-- `MSG b0 b1 ...` (R99). -/
def scriptMsg (bytes : List Byte) : List HostLine :=
  .wr 5 (BitVec.ofNat 32 bytes.length) :: scriptBytes 0 bytes

/-- `ENCODE`, `DECODE` and `CAPACITY` (R99). -/
def scriptEncode : List HostLine := [.cmd .enc, .wait]
def scriptDecode : List HostLine := [.cmd .dec, .wait]
def scriptCapacity : List HostLine := [.cmd .cap, .wait, .rd 6]

end Sys2Proof.Machine
end

