-- ==== Sys2Proof/Tests/Slice0.lean ====
section
/-! SUPPORT. The model's own tests: the vectors of spec/95_test_vectors.md (cited as V<n>, P<n>), the ill-formed command
bytes, and for each statement with hypotheses a concrete state that meets them (`witness_…`). -/

namespace Sys2Proof.Tests

open Sys2Proof Sys2Proof.Machine Host

/-! ## Helpers -/

/-- The four channel bytes of the pixel with traversal index t. -/
def pixelCells (h : Nat) (r g b a : Byte) (t : Nat) : Memory :=
  [ (pixKey (t / h) (t % h) 0, r), (pixKey (t / h) (t % h) 1, g),
    (pixKey (t / h) (t % h) 2, b), (pixKey (t / h) (t % h) 3, a) ]

/-- After reset, a grid of w columns and h rows with one value in every pixel. -/
def filled (w h : Nat) (r g b a : Byte) : State :=
  { State.reset with
    width := { val := BitVec.ofNat 16 w, held := true }
    height := { val := BitVec.ofNat 16 h, held := true }
    pix := (List.range (w * h)).flatMap (pixelCells h r g b a) }

/-- A message and its length. -/
def withMsg (s : State) (m : List Byte) : State :=
  { s with
    msglen := { val := BitVec.ofNat 32 m.length, held := true }
    msg := (List.range m.length).zip m }

/-- A length alone, with no message byte. -/
def withLen (s : State) (n : Nat) : State :=
  { s with msglen := { val := BitVec.ofNat 32 n, held := true } }

/-- The host's next line. -/
def saying (s : State) (l : HostLine) : State := { s with script := [l] }

/-- The outcome is a next state with the property. -/
def nextIs (o : Outcome State Fault Refusal) (p : State → Bool) : Bool :=
  match o with
  | .next t => p t
  | .fault _ => false
  | .refused _ => false

theorem of_nextIs {o : Outcome State Fault Refusal} {p : State → Bool} (h : nextIs o p = true) :
    ∃ t, o = .next t ∧ p t = true := by
  cases o with
  | next t => exact ⟨t, rfl, h⟩
  | fault r => cases h
  | refused r => cases h

/-- The outcome is that refusal. -/
def refusedWith (o : Outcome State Fault Refusal) (r : Refusal) : Bool :=
  match o with
  | .next _ => false
  | .fault _ => false
  | .refused q => decide (q = r)

/-- STATUS and ERR as the host reads them. -/
def resultIs (t : State) (st : Status) (e : ErrCode) : Bool := decide (t.status = st) && decide (t.err = e)

/-! The states of the tests. -/

/-- V52: 22 pixels of ones, the empty message. -/
def empty22 : State := withMsg (filled 22 1 0xFF 0xFF 0xFF 0xFF) []
/-- V54: 21 pixels, the empty message, which is not admitted. -/
def empty21 : State := withMsg (filled 21 1 0xFF 0xFF 0xFF 0xFF) []
/-- P3: the message 0x48 0x49 in a 4 × 7 grid. -/
def hi28 : State := withMsg (filled 4 7 0xFF 0x80 0x01 0xC8) [0x48, 0x49]
/-- V61: ten pixels. -/
def ten : State := filled 2 5 0x10 0x20 0x30 0x40
/-- V62: eleven pixels whose carrier bits are 0. -/
def eleven : State := filled 11 1 0x10 0x20 0x30 0x40
/-- V63: as V62 with carrier bit 31 set. -/
def eleven1 : State := eleven.pixStore 10 0 1 0x21
/-- V66: the payload 11000011. -/
def payloadC3 : State :=
  (((((filled 2 7 0x10 0x20 0x30 0x40).pixStore 1 3 1 0x21).pixStore 1 3 2 0x31).pixStore 1 4 0 0x11).pixStore 1 5 2
    0x31).pixStore 1 6 0 0x11

/-! ## WellFormed and Decode -/

/-- R95: the ill-formed command bytes, at the ends of both illegal ranges, are refused by the check and by the decoder. -/
theorem test_ill_formed_command_bytes :
    commandByteLegal 0x00 = false ∧ commandByteLegal 0x04 = false ∧ commandByteLegal 0xFF = false ∧
    (decode 0x00).toOption = none ∧ (decode 0x04).toOption = none ∧ (decode 0xFF).toOption = none := by decide

/-- R90: a command has no field, so each is well formed. -/
theorem test_commands_well_formed :
    Instr.wellFormed .cap = true ∧ Instr.wellFormed .enc = true ∧ Instr.wellFormed .dec = true := by decide

/-- R91: op = 00000001, bit 7 to bit 0. -/
theorem test_decode_cap : (decode (BitVec.ofNat 8 0b00000001)).toOption = some .cap := by decide
/-- R92: op = 00000010. -/
theorem test_decode_enc : (decode (BitVec.ofNat 8 0b00000010)).toOption = some .enc := by decide
/-- R93: op = 00000011. -/
theorem test_decode_dec : (decode (BitVec.ofNat 8 0b00000011)).toOption = some .dec := by decide

/-- The words of spec/opcode_table.json, and V74: bits above bit 7 are dropped. -/
theorem test_table_words :
    decodeTableWord 8 1 = some .cap ∧ decodeTableWord 8 2 = some .enc ∧ decodeTableWord 8 3 = some .dec ∧
    decodeTableWord 8 0 = none ∧ decodeTableWord 8 4 = none ∧ commandByte 0x00000101 = 0x01 := by decide

/-- The step after reset runs the word placed by withFetchWord, which marks the operand registers as written: on a 0 × 0
grid CAP is DONE (V20), ENC is FAIL with CapacityExceeded (V55), DEC is FAIL with MalformedCarrier (V68); an illegal byte is
IllegalCommand (V72). -/
theorem test_first_command_after_reset :
    nextIs (step (State.reset.withFetchWord 8 1)) (fun t => resultIs t .done .none) = true ∧
    nextIs (step (State.reset.withFetchWord 8 2)) (fun t => resultIs t .fail .capacityExceeded) = true ∧
    nextIs (step (State.reset.withFetchWord 8 3)) (fun t => resultIs t .fail .malformedCarrier) = true ∧
    nextIs (step (State.reset.withFetchWord 8 0)) (fun t => resultIs t .fail .illegalCommand) = true := by decide

/-! ## BitAccessor, WordFramer, CapacityCalculator, Traversal, BitStreamProducer -/

/-- V6, V9, V11. -/
theorem test_bit_functions :
    (List.range 8).map (fun i => getBit 0xA5 (BitVec.ofNat 3 i)) = [true, false, true, false, false, true, false, true] ∧
    setBit 0x48 4 false = 0x40 ∧ setBit 0xA5 3 true = 0xB5 ∧ setBit 0x5A 2 true = 0x7A ∧
    setLSB 0x80 true = 0x81 ∧ setLSB 0x7F false = 0x7E ∧ getLSB 0xFE = false := by decide

/-- V17, V18. -/
theorem test_word_framer :
    splitToBytes 0x01020304 = { b0 := 0x01, b1 := 0x02, b2 := 0x03, b3 := 0x04 } ∧
    combineToInt { b0 := 0xDE, b1 := 0xAD, b2 := 0xBE, b3 := 0xEF } = 3735928559 := by decide

/-- V23, V24, V25, V29. -/
theorem test_capacity :
    maxEncodeSize 7 3 = 0 ∧ maxEncodeSize 22 1 = 4 ∧ maxEncodeSize 23 1 = 4 ∧ maxEncodeSize 65535 65535 = 1610563580 := by
  decide

/-- V40, V44, V47. -/
theorem test_traversal :
    pixelOf 7 10 = (1, 3) ∧ pixelOf 7 27 = (3, 6) ∧ carrierPlace 7 32 = { x := 1, y := 3, c := 2 } ∧
    carrierPlace 7 83 = { x := 3, y := 6, c := 2 } ∧
    advanceCarousel 7 { x := 3, y := 6, c := 2 } = { x := 4, y := 0, c := 0 } := by decide

/-- V33: sixteen bits, then end-of-stream at this and every later pull. -/
theorem test_bit_stream :
    produce [0x48, 0x49] = [false, true, false, false, true, false, false, false,
                            false, true, false, false, true, false, false, true] ∧
    nthPull [0x48, 0x49] 15 = .bit true ∧ nthPull [0x48, 0x49] 16 = .endOfStream ∧
    nthPull [0x48, 0x49] 20 = .endOfStream := by decide

/-! ## The commands -/

/-- V27, V75: CAP on a 5 × 5 grid gives 5 and clears the earlier error. -/
theorem test_cap :
    nextIs (exec .cap ((filled 5 5 0 0 0 0).raise .illegalCommand))
      (fun t => resultIs t .done .none && t.capacity == { val := 5, held := true }) = true := by decide

/-- V52: the stop is in the middle of a pixel; V54: 21 pixels do not admit the empty message. -/
theorem test_enc_empty_message :
    nextIs (exec .enc empty22) (fun t => resultIs t .done .none && t.pixByte 10 0 1 == some 0xFE &&
      t.pixByte 10 0 2 == some 0xFF && t.pixByte 9 0 3 == some 0xFF && t.pixByte 11 0 0 == some 0xFF) = true ∧
    nextIs (exec .enc empty21) (fun t => resultIs t .fail .capacityExceeded && t.pix == empty21.pix) = true := by
  decide +kernel

/-- V43: the columns-outer order puts the payload of 0x48 0x49 where it should. -/
theorem test_enc_two_bytes :
    nextIs (exec .enc (withMsg (filled 4 7 0 0 0 0) [0x48, 0x49])) (fun t => resultIs t .done .none &&
      t.pixByte 1 3 0 == some 1 && t.pixByte 1 4 0 == some 1 && t.pixByte 1 5 0 == some 1 && t.pixByte 1 6 2 == some 1 &&
      t.pixByte 2 0 2 == some 1 && t.pixByte 2 1 2 == some 1 && t.pixByte 1 3 1 == some 0) = true := by decide +kernel

/-- V62: an all-zero header; V66: the payload 0xC3. -/
theorem test_dec_payload :
    nextIs (exec .dec eleven) (fun t => resultIs t .done .none && t.msglen == { val := 0, held := true }) = true ∧
    nextIs (exec .dec payloadC3) (fun t => resultIs t .done .none && t.msglen == { val := 1, held := true } &&
      t.msgByte 0 == some 0xC3) = true := by decide +kernel

/-- V61, V63: the two checks of DEC. -/
theorem test_dec_malformed :
    nextIs (exec .dec ten) (fun t => resultIs t .fail .malformedCarrier) = true ∧
    nextIs (exec .dec eleven1) (fun t => resultIs t .fail .malformedCarrier && t.pix == eleven1.pix) = true := by
  decide +kernel

/-- V79, V80: a launch without operands is refused, not run on zeros; R61: so is a pixel access without dimensions. -/
theorem test_refused_launches :
    refusedWith (step (saying State.reset (.cmd .cap))) .unwrittenRegister = true ∧
    nextIs (step (saying eleven (.wr 3 11))) (fun t => refusedWith (exec .dec t) .unwrittenByte) = true ∧
    refusedWith (step (saying State.reset (.pixr 0 0 0))) .gridWithoutDimensions = true := by
  decide +kernel

/-- V72, V73, V76, V77, V78, V81: the host's moves. -/
theorem test_host_moves :
    nextIs (step (saying eleven (.wr 0 0x80))) (fun t => resultIs t .fail .illegalCommand) = true ∧
    nextIs (step (saying eleven (.pixw 11 0 0 0))) (fun t => resultIs t .fail .gridBounds && t.pix == eleven.pix) = true ∧
    nextIs (step (saying eleven (.wr 1 2))) (fun t => resultIs t .idle .none) = true ∧
    nextIs (step (saying eleven (.rd 255))) (fun t => t.reply == some 0) = true ∧
    nextIs (step (saying State.reset (.wr 3 0x00010005))) (fun t => t.width == { val := 5, held := true }) = true := by
  decide +kernel

/-! ## Witnesses: encoding and the step -/

/-- CommandCodesRoundTrip: bytes that decode. -/
theorem witness_bytes_that_decode :
    decode 0x01 = .ok .cap ∧ decode 0x02 = .ok .enc ∧ decode 0x03 = .ok .dec := ⟨rfl, rfl, rfl⟩

/-- OtherCodesRaiseIllegalCommand, at the ends of the illegal ranges and with bits above bit 7. -/
theorem witness_illegal_codes :
    (saying State.reset (.wr 0 0x00)).hostTurn (.wr 0 0x00) [] ∧
    (saying State.reset (.launch 0x304)).hostTurn (.launch 0x304) [] ∧
    (∀ v ∈ [(0x00 : Word), 0x304, 0xFF], commandByte v ≠ 0x01 ∧ commandByte v ≠ 0x02 ∧ commandByte v ≠ 0x03) := by
  refine ⟨⟨rfl, by decide⟩, ⟨rfl, by decide⟩, ?_⟩
  intro v hv
  simp only [List.mem_cons, List.not_mem_nil, or_false] at hv
  rcases hv with rfl | rfl | rfl <;> decide

/-- StepRunsTheDecodedCommand: each command. -/
theorem witness_command_lines :
    (saying empty22 (.wr 0 1)).hostTurn (.wr 0 1) [] ∧ decode (commandByte 1) = .ok .cap ∧
    (saying empty22 (.wr 0 2)).hostTurn (.wr 0 2) [] ∧ decode (commandByte 2) = .ok .enc ∧
    (saying empty22 (.wr 0 0xFFFFFF03)).hostTurn (.wr 0 0xFFFFFF03) [] ∧ decode (commandByte 0xFFFFFF03) = .ok .dec :=
  ⟨⟨rfl, by decide⟩, rfl, ⟨rfl, by decide⟩, rfl, ⟨rfl, by decide⟩, rfl⟩

/-- StepAtMicroStepGranularity: its five clauses. -/
theorem witness_micro_step_lines :
    (saying empty22 (.launch 2)).hostTurn (.launch 2) [] ∧ decode (commandByte 2) = .ok .enc ∧
    (empty22.encStart.status = .busy ∧ empty22.encStart.script = []) ∧
    ((saying empty22.encStart .idle).status = .busy ∧ (saying empty22.encStart .idle).script = [.idle]) ∧
    ((saying empty22.encStart .wait).status = .busy ∧ (saying empty22.encStart .wait).script = [.wait]) ∧
    (empty22.status ≠ .busy ∧ empty22.script = []) :=
  ⟨⟨rfl, by decide⟩, rfl, ⟨rfl, rfl⟩, ⟨rfl, rfl⟩, ⟨rfl, rfl⟩, by decide, rfl⟩

/-! ## Witnesses: capacity, traversal, stream, queue -/

/-- CapacityFormula and CapCompletes: the largest dimensions, and both sides of the held registers. -/
theorem witness_capacity :
    (65535 : Nat) < 65536 ∧ (0 : Nat) < 65536 ∧ empty22.gridHeld = true ∧ State.reset.gridHeld = false ∧
    ({ State.reset with width := { val := 5, held := true } } : State).gridHeld = false := by decide

/-- PixelAdvanceFollowsTheTraversal and CarouselFollowsTheCarrierBits: the first pixel, the last and the end of the grid. -/
theorem witness_traversal : 0 < 7 ∧ 0 < 4 * 7 ∧ 27 < 4 * 7 ∧ 28 = 4 * 7 := by decide

/-- QueueDeliversTheStreamInOrder: a whole run at depth 1, and the start at the default depth. -/
theorem witness_queue :
    0 < 1 ∧ ((BitQueue.start.run [0x80] 1
      [.push, .pop, .push, .pop, .push, .pop, .push, .pop, .push, .pop, .push, .pop, .push, .pop, .push, .pop,
       .close, .observeEnd]).map (fun q => q.ended)) = some true ∧
    0 < Config.queueDepth ∧ BitQueue.start.run [0x48] Config.queueDepth [.push, .push] ≠ none := by decide +kernel

/-! ## Witnesses: ENC -/

/-- FramedBitsAreProduced: an empty message and one of two bytes, at the last bit of each. -/
theorem witness_framed_message :
    (([] : List Byte).length = empty22.len ∧ (∀ j, j < empty22.len → empty22.msgByte j = ([] : List Byte)[j]?) ∧
      31 < framedBits empty22.len) ∧
    (([0x48, 0x49] : List Byte).length = hi28.len ∧
      (∀ j, j < hi28.len → hi28.msgByte j = ([0x48, 0x49] : List Byte)[j]?) ∧ 47 < framedBits hi28.len) := by
  decide +kernel

/-- EncAdmissionCheck and EncStaysInTheGrid: 21 pixels do not admit the empty message, 22 do; the first and the last carrier
bit. -/
theorem witness_admission :
    (empty21.encHeld = true ∧ empty21.admits = false ∧ maxEncodeSize empty21.w empty21.h < empty21.len + 4) ∧
    (empty22.encHeld = true ∧ empty22.admits = true) ∧
    0 < framedBits empty22.len ∧ 31 < framedBits empty22.len := by decide +kernel

/-- EncCompletes: a message that is not admitted (by one byte: V57), and two that are, with every operand held; the last byte of
the grid, which is an alpha byte. -/
theorem witness_enc_completes :
    ((withLen (filled 8 8 0 0 0 0) 17).encHeld = true ∧
      maxEncodeSize (withLen (filled 8 8 0 0 0 0) 17).w (withLen (filled 8 8 0 0 0 0) 17).h <
        (withLen (filled 8 8 0 0 0 0) 17).len + 4) ∧
    (empty22.encHeld = true ∧ empty22.len + 4 ≤ maxEncodeSize empty22.w empty22.h ∧ empty22.encReadable) ∧
    (hi28.encHeld = true ∧ hi28.len + 4 ≤ maxEncodeSize hi28.w hi28.h ∧ hi28.encReadable) ∧
    (3 < hi28.w ∧ 6 < hi28.h ∧ 3 < 4) := by
  unfold State.encReadable
  decide +kernel

/-- EncFrame, EncWritesTheWireFormat, EncTwiceIsEncOnce, EncMicroStepsReachTheTransition, EncAdmissionCheck and
DecodeAfterEncodeReturnsTheMessage: an ENC that is done, on PIX in canonical form. -/
theorem witness_enc_done :
    Memory.wf hi28.pix = true ∧ ∃ t, exec .enc hi28 = .next t ∧ t.status = .done := by
  refine ⟨by decide +kernel, ?_⟩
  obtain ⟨t, h, p⟩ := of_nextIs (o := exec .enc hi28) (p := fun t => decide (t.status = .done)) (by decide +kernel)
  exact ⟨t, h, of_decide_eq_true p⟩

/-- EncFrame and EncMicroStepsReachTheTransition: an ENC that fails; a byte outside the carrier keys (alpha of the first
pixel) and one that holds a value. -/
theorem witness_enc_fails :
    (∃ t, exec .enc empty21 = .next t ∧ t.status ≠ .done) ∧
    (∀ k < framedBits hi28.len, pixKey 0 0 3 ≠ hi28.carrierKey k) ∧ Memory.read hi28.pix (pixKey 0 0 3) = some 0xC8 := by
  refine ⟨?_, by decide +kernel, by decide +kernel⟩
  obtain ⟨t, h, p⟩ := of_nextIs (o := exec .enc empty21) (p := fun t => decide (t.status ≠ .done)) (by decide +kernel)
  exact ⟨t, h, of_decide_eq_true p⟩

/-! ## Witnesses: DEC -/

/-- CarrierByteIsMsbFirst and HeaderIsTheFirstThirtyTwoCarrierBits: bytes that hold values, and bits that do. -/
theorem witness_carrier_bytes :
    payloadC3.carrierByte 4 = some 0xC3 ∧
    (∀ i : BitIdx, payloadC3.carrierBit (8 * 4 + i.toNat) ≠ none) ∧
    payloadC3.carrierHeader = some { b0 := 0, b1 := 0, b2 := 0, b3 := 1 } ∧ 0 < 32 ∧ 31 < 32 := by decide +kernel

/-- DecCompletes, at the last message byte and the first byte beyond it. -/
theorem witness_dec_completes :
    payloadC3.gridHeld = true ∧ payloadC3.holdsHeader = true ∧
    payloadC3.carrierHeader = some { b0 := 0, b1 := 0, b2 := 0, b3 := 1 } ∧
    payloadC3.holdsFramed (combineToInt { b0 := 0, b1 := 0, b2 := 0, b3 := 1 }).toNat = true ∧
    (∀ k < pixelBytes (framedBits (combineToInt { b0 := 0, b1 := 0, b2 := 0, b3 := 1 }).toNat),
      payloadC3.carrier k ≠ none) ∧
    0 < (combineToInt { b0 := 0, b1 := 0, b2 := 0, b3 := 1 }).toNat ∧
    (combineToInt { b0 := 0, b1 := 0, b2 := 0, b3 := 1 }).toNat ≤ 1 := by decide +kernel

/-- DecFailsExactlyWhenMalformed: its three clauses, at 30 and at 33 carrier bits. -/
theorem witness_dec_malformed :
    (ten.gridHeld = true ∧ ten.carriers < 32) ∧
    (eleven1.gridHeld = true ∧ 32 ≤ eleven1.carriers ∧ (∀ k < pixelBytes 32, eleven1.carrier k ≠ none) ∧
      eleven1.carrierHeader = some { b0 := 0, b1 := 0, b2 := 0, b3 := 1 } ∧
      eleven1.carriers < framedBits (combineToInt { b0 := 0, b1 := 0, b2 := 0, b3 := 1 }).toNat) := by decide +kernel

/-- DecFrame, DecFailsExactlyWhenMalformed and DecMicroStepsReachTheTransition: a DEC that is done, one that fails at the
header check and one that fails at the bound check. -/
theorem witness_dec_outcomes :
    (Memory.wf payloadC3.msg = true ∧ ∃ t, exec .dec payloadC3 = .next t ∧ t.status = .done) ∧
    (ten.holdsHeader = false ∧ ∃ t, exec .dec ten = .next t ∧ t.status ≠ .done) ∧
    (eleven1.holdsHeader = true ∧ ∃ t, exec .dec eleven1 = .next t ∧ t.status ≠ .done) := by
  refine ⟨⟨by decide +kernel, ?_⟩, ⟨by decide, ?_⟩, by decide +kernel, ?_⟩
  · obtain ⟨t, h, p⟩ :=
      of_nextIs (o := exec .dec payloadC3) (p := fun t => decide (t.status = .done)) (by decide +kernel)
    exact ⟨t, h, of_decide_eq_true p⟩
  · obtain ⟨t, h, p⟩ := of_nextIs (o := exec .dec ten) (p := fun t => decide (t.status ≠ .done)) (by decide +kernel)
    exact ⟨t, h, of_decide_eq_true p⟩
  · obtain ⟨t, h, p⟩ := of_nextIs (o := exec .dec eleven1) (p := fun t => decide (t.status ≠ .done)) (by decide +kernel)
    exact ⟨t, h, of_decide_eq_true p⟩

/-- DecReadsOnlyItsCarrierBits: a second grid with a changed bit beyond the message, in the last of the pixels that hold
it. -/
theorem witness_dec_reads :
    payloadC3.width = (payloadC3.pixStore 1 6 2 0x31).width ∧ payloadC3.height = (payloadC3.pixStore 1 6 2 0x31).height ∧
    ∃ t, exec .dec payloadC3 = .next t ∧ t.status = .done ∧
      (∀ k < framedBits t.len, payloadC3.carrierBit k = (payloadC3.pixStore 1 6 2 0x31).carrierBit k) ∧
      ∀ k < pixelBytes (framedBits t.len), (payloadC3.pixStore 1 6 2 0x31).carrier k ≠ none := by
  refine ⟨by decide +kernel, by decide +kernel, ?_⟩
  obtain ⟨t, h, p⟩ := of_nextIs (o := exec .dec payloadC3)
    (p := fun t => decide (t.status = .done) && (decide (∀ k < framedBits t.len, payloadC3.carrierBit k =
      (payloadC3.pixStore 1 6 2 0x31).carrierBit k) && decide (∀ k < pixelBytes (framedBits t.len),
      (payloadC3.pixStore 1 6 2 0x31).carrier k ≠ none))) (by decide +kernel)
  simp only [Bool.and_eq_true, decide_eq_true_eq] at p
  exact ⟨t, h, p⟩

/-- DecodeAfterEncodeReturnsTheMessage: PIX and the dimensions of an ENC that is done, in another state (MSGLEN and MSG
without values). P3 gives what DEC then returns. -/
theorem witness_round_trip :
    ∃ t d : State, exec .enc hi28 = .next t ∧ t.status = .done ∧ d.pix = t.pix ∧ d.width = t.width ∧
      d.height = t.height ∧ d.msglen.held = false ∧
      nextIs (exec .dec d) (fun u => resultIs u .done .none && u.msglen == { val := 2, held := true } &&
        u.msgByte 0 == some 0x48 && u.msgByte 1 == some 0x49) = true := by
  obtain ⟨t, h, p⟩ := of_nextIs (o := exec .enc hi28)
    (p := fun t => decide (t.status = .done) &&
      nextIs (exec .dec { t with msglen := { val := 0, held := false }, msg := [] }) (fun u => resultIs u .done .none &&
        u.msglen == { val := 2, held := true } && u.msgByte 0 == some 0x48 && u.msgByte 1 == some 0x49))
    (by decide +kernel)
  simp only [Bool.and_eq_true, decide_eq_true_eq] at p
  exact ⟨t, { t with msglen := { val := 0, held := false }, msg := [] }, h, p.1, rfl, rfl, rfl, rfl, p.2⟩

/-! ## Witnesses: launch, host and the whole machine -/

/-- LaunchWithoutOperandsIsRefused, the registers: none written, MSGLEN alone not written, all written. -/
theorem witness_unwritten_operands :
    State.reset.gridHeld = false ∧ (filled 22 1 0 0 0 0).gridHeld = true ∧ (filled 22 1 0 0 0 0).encHeld = false ∧
    empty22.encHeld = true := by decide +kernel

/-- LaunchWithoutOperandsIsRefused, the bytes ENC takes: carrier bits 0 to 31 held and only the B after them not; the one
message byte. -/
theorem witness_unwritten_enc_bytes :
    (let s := withLen { filled 22 1 0 0 0 0 with pix := (filled 22 1 0 0 0 0).pix.take 42 } 0
     s.encHeld = true ∧ s.admits = true ∧ (∀ k < framedBits s.len, s.carrier k ≠ none) ∧
     32 < pixelBytes (framedBits s.len) ∧ s.carrier 32 = none) ∧
    (let s := withLen (filled 5 5 0 0 0 0) 1
     s.encHeld = true ∧ s.admits = true ∧ 0 < s.len ∧ s.msgByte 0 = none) := by decide +kernel

/-- LaunchWithoutOperandsIsRefused, the bytes DEC takes: the B of the header's last pixel; of the payload's pixels the B of
the last, after the last bit (39). -/
theorem witness_unwritten_dec_bytes :
    (let s : State := { eleven with pix := eleven.pix.take 42 }
     s.gridHeld = true ∧ s.holdsHeader = true ∧ (∀ k < 32, s.carrier k ≠ none) ∧ 32 < pixelBytes 32 ∧
     s.carrier 32 = none) ∧
    (let s : State := { payloadC3 with pix := payloadC3.pix.take 54 }
     s.gridHeld = true ∧ s.holdsHeader = true ∧ s.carrierHeader = some { b0 := 0, b1 := 0, b2 := 0, b3 := 1 } ∧
     s.holdsFramed (combineToInt { b0 := 0, b1 := 0, b2 := 0, b3 := 1 }).toNat = true ∧
     (∀ k < framedBits 1, s.carrier k ≠ none) ∧
     41 < pixelBytes (framedBits (combineToInt { b0 := 0, b1 := 0, b2 := 0, b3 := 1 }).toNat) ∧
     s.carrier 41 = none) := by decide +kernel

/-- OperandsDetermineTheResult: two states that differ in the rest; each command answers a next state (`witness_enc_done`,
`witness_dec_outcomes`, and CAP here). -/
theorem witness_same_operands :
    hi28.sameOperands (hi28.raise .gridBounds) ∧ payloadC3.sameOperands (payloadC3.raise .gridBounds) ∧
    ten.sameOperands (ten.raise .gridBounds) ∧ ∃ t, exec .cap hi28 = .next t := by
  refine ⟨⟨rfl, rfl, rfl, rfl, rfl⟩, ?_, ⟨rfl, rfl, rfl, rfl, rfl⟩, _, rfl⟩
  generalize payloadC3 = s
  exact ⟨rfl, rfl, rfl, rfl, rfl⟩

/-- EveryCommandCompletes: a launch of each command. -/
theorem witness_launches :
    (∃ u, launchOnly .cap hi28 = .next u) ∧ (∃ u, launchOnly .enc empty22 = .next u) ∧
    (∃ u, launchOnly .dec eleven = .next u) := by
  refine ⟨⟨_, rfl⟩, ?_, ?_⟩
  · obtain ⟨t, h, -⟩ := of_nextIs (o := launchOnly .enc empty22) (p := fun _ => true) (by decide +kernel)
    exact ⟨t, h⟩
  · obtain ⟨t, h, -⟩ := of_nextIs (o := launchOnly .dec eleven) (p := fun _ => true) (by decide +kernel)
    exact ⟨t, h⟩

/-- BusyRefusesHostMoves: a read of STATUS, and the moves on both sides of it. -/
theorem witness_busy_moves :
    (saying empty22.encStart (.rd 1)).status = .busy ∧ (saying empty22.encStart (.rd 1)).script = [.rd 1] ∧
    (∀ l ∈ [HostLine.rd 0, .rd 2, .wr 0 1, .launch 1, .pixr 0 0 0, .msgw 0 0],
      l ≠ .rd 1 ∧ l ≠ .wait ∧ l ≠ .idle ∧ l ≠ .reset) := by decide

/-- RegisterAccessByNumber: reads of every number and writes of those with no effect, at the ends of their ranges; the
registers hold values. -/
theorem witness_register_moves :
    (∀ n ∈ [(0 : Byte), 1, 2, 3, 4, 5, 6, 7, 255], (saying empty22 (.rd n)).script = [.rd n] ∧
      (saying empty22 (.rd n)).status ≠ .busy) ∧
    (∀ n ∈ [(1 : Byte), 2, 5, 6, 7, 255], (saying empty22 (.wr n 9)).script = [.wr n 9] ∧
      (saying empty22 (.wr n 9)).status ≠ .busy) ∧
    empty22.width.held = true ∧ empty22.height.held = true ∧ empty22.msglen.held = true ∧
    nextIs (exec .cap empty22) (fun t => t.capacity.held) = true := by decide

/-- RegisterAccessByNumber: each value of STATUS but BUSY and each of ERR at a read, and the lines WAIT and idle. -/
theorem witness_status_reads :
    (saying State.reset (.rd 1)).hostTurn (.rd 1) [] ∧ State.reset.status = .idle ∧ State.reset.err = .none ∧
    (saying State.reset.complete (.rd 1)).hostTurn (.rd 1) [] ∧
    (∀ e, (saying (State.reset.raise e) (.rd 2)).hostTurn (.rd 2) [] ∧ (State.reset.raise e).status = .fail) ∧
    (saying empty22 .wait).hostTurn .wait [] ∧ (saying empty22 .idle).hostTurn .idle [] :=
  ⟨⟨rfl, by decide⟩, rfl, rfl, ⟨rfl, by decide⟩, fun _ => ⟨⟨rfl, nofun⟩, rfl⟩, ⟨rfl, by decide⟩, ⟨rfl, by decide⟩⟩

/-- R23, R24: the codes at a read, by number: DONE is 2, FAIL is 3, IllegalCommand is 4. -/
theorem test_status_codes :
    nextIs (step (saying State.reset.complete (.rd 1))) (fun t => t.reply == some 2) = true ∧
    nextIs (step (saying (State.reset.raise .illegalCommand) .wait)) (fun t => t.reply == some 3) = true ∧
    nextIs (step (saying (State.reset.raise .illegalCommand) (.rd 2))) (fun t => t.reply == some 4) = true := by decide

/-- HostDutiesGiveEveryLaunchAResult: a grid and a message all written. -/
theorem witness_host_duties :
    hi28.gridHeld = true ∧ (∀ x < hi28.w, ∀ y < hi28.h, ∀ c < 4, hi28.pixByte x y c ≠ none) ∧
    hi28.msglen.held = true ∧ ∀ j < hi28.len, hi28.msgByte j ≠ none := by decide +kernel

/-- UnwrittenRegisterReadsSomeValue: after reset none of the four holds a value. -/
theorem witness_unwritten_registers :
    (∀ n ∈ [(3 : Byte), 4, 5, 6], (saying State.reset (.rd n)).script = [.rd n] ∧
      (saying State.reset (.rd n)).status ≠ .busy) ∧
    State.reset.width.held = false ∧ State.reset.height.held = false ∧ State.reset.msglen.held = false ∧
    State.reset.capacity.held = false := by decide

/-- DimensionWriteDiscardsThePixels: both writes, one with a value that does not fit. -/
theorem witness_dimension_writes :
    (saying empty22 (.wr 3 0x00010005)).hostTurn (.wr 3 0x00010005) [] ∧
    (saying empty22 (.wr 4 0)).hostTurn (.wr 4 0) [] := ⟨⟨rfl, by decide⟩, ⟨rfl, by decide⟩⟩

/-- HostPixWriteIsBoundsChecked and HostPixReadIsBoundsChecked: the last pixel, the two first coordinates out of bounds, a
byte that holds no value, and a grid without dimensions. -/
theorem witness_pixel_moves :
    (saying empty22 (.pixw 21 0 3 7)).hostTurn (.pixw 21 0 3 7) [] ∧
    (saying empty22 (.pixr 21 0 3)).hostTurn (.pixr 21 0 3) [] ∧
    empty22.gridHeld = true ∧ (21 : Half).toNat < empty22.w ∧ (0 : Half).toNat < empty22.h ∧
    empty22.w ≤ (22 : Half).toNat ∧ empty22.h ≤ (1 : Half).toNat ∧ empty22.pixByte 21 0 3 = some 0xFF ∧
    ({ empty22 with pix := [] } : State).pixByte 21 0 3 = none ∧ State.reset.gridHeld = false := by
  refine ⟨⟨rfl, by decide⟩, ⟨rfl, by decide⟩, ?_⟩
  decide +kernel

/-- HostMessageAccess: the last index there is, and a byte with and one without a value. -/
theorem witness_message_moves :
    (saying hi28 (.msgw 0xFFFFFFFF 7)).hostTurn (.msgw 0xFFFFFFFF 7) [] ∧
    (saying hi28 (.msgr 1)).hostTurn (.msgr 1) [] ∧ hi28.msgByte 1 = some 0x49 ∧ hi28.msgByte 2 = none :=
  ⟨⟨rfl, by decide⟩, ⟨rfl, by decide⟩, by decide, by decide⟩

/-- ResetAtAnyTime: reset of a running command. -/
theorem witness_reset_line :
    (saying empty22.encStart .reset).script = [.reset] ∧ (saying empty22.encStart .reset).status = .busy := ⟨rfl, rfl⟩

/-- OnlyTheHostChangesTheDimensions, OnlyCapWritesCapacity and OnlyTheHostChangesAlpha: steps that change them. -/
theorem witness_changes :
    nextIs (step (saying hi28 (.wr 3 9))) (fun t => decide (t.width ≠ hi28.width) &&
      decide (Memory.read t.pix (pixKey 0 0 3) ≠ Memory.read hi28.pix (pixKey 0 0 3))) = true ∧
    nextIs (step (saying hi28 (.wr 4 9))) (fun t => decide (t.height ≠ hi28.height)) = true ∧
    nextIs (step (saying hi28 .reset)) (fun t => decide (t.width ≠ hi28.width) && decide (t.height ≠ hi28.height)) = true ∧
    nextIs (step (saying hi28 (.wr 0 1))) (fun t => decide (t.capacity ≠ hi28.capacity)) = true ∧
    nextIs (step (saying hi28 (.launch 1))) (fun t => decide (t.capacity ≠ hi28.capacity)) = true ∧
    nextIs (step (saying hi28 (.pixw 0 0 3 0x11))) (fun t =>
      decide (Memory.read t.pix (pixKey 0 0 3) ≠ Memory.read hi28.pix (pixKey 0 0 3))) = true := by decide +kernel

/-- MicroStepMovesOneBit and EveryStepKeepsTheBlockSound: a sound state, BUSY, whose micro-step leaves it BUSY; and a
sound state at rest whose step runs a command. -/
theorem witness_sound_states :
    (empty22.encStart.sound = true ∧ empty22.encStart.status = .busy ∧
      nextIs (microStep empty22.encStart) (fun t => decide (t.status = .busy)) = true) ∧
    ((saying hi28 (.wr 0 2)).sound = true ∧ nextIs (step (saying hi28 (.wr 0 2))) (fun _ => true) = true) := by
  decide +kernel

end Sys2Proof.Tests
end

/-! SUPPORT. The bit stream seen from a cursor: the bits it has not pulled yet, and what one pull does to them (R160 to
R163). -/

namespace Sys2Proof.Machine

/-- The bits of the sequence from a cursor on, those still to be pulled (R161). -/
def unpulled (bytes : List Byte) (c : BitCursor) : List Bit :=
  (produce (bytes.drop c.byteIndex)).drop c.bitIndex.toNat

@[simp] theorem length_byteBits (v : Byte) : (byteBits v).length = 8 := rfl

@[simp] theorem produce_nil : produce [] = [] := rfl

@[simp] theorem produce_cons (v : Byte) (vs : List Byte) : produce (v :: vs) = byteBits v ++ produce vs := rfl

/-- Entry i of a byte in stream order is its bit at MSB-index i (R69). -/
theorem byteBits_getElem (v : Byte) (i : BitIdx) : (byteBits v)[i.toNat]'i.isLt = getBit v i := by
  obtain ⟨⟨k, hk⟩⟩ := i
  interval_cases k <;> rfl

/-- Within a byte of the sequence: its bits from the cursor's bit on, then all the bits of the later bytes. -/
theorem unpulled_of_byte {bytes : List Byte} {c : BitCursor} {v : Byte} (h : bytes[c.byteIndex]? = some v) :
    unpulled bytes c = (byteBits v).drop c.bitIndex.toNat ++ produce (bytes.drop (c.byteIndex + 1)) := by
  obtain ⟨hlt, rfl⟩ := List.getElem?_eq_some_iff.mp h
  have hbit : c.bitIndex.toNat ≤ (byteBits bytes[c.byteIndex]).length := c.bitIndex.isLt.le
  rw [unpulled, List.drop_eq_getElem_cons hlt, produce_cons, List.drop_append_of_le_length hbit]

/-- The advanced cursor has the rest of its byte before it, nothing of it after the last bit, then the later bytes. -/
theorem unpulled_advanceCursor {bytes : List Byte} {c : BitCursor} {v : Byte} (h : bytes[c.byteIndex]? = some v) :
    unpulled bytes (advanceCursor c) =
      (byteBits v).drop (c.bitIndex.toNat + 1) ++ produce (bytes.drop (c.byteIndex + 1)) := by
  by_cases hlast : c.bitIndex = 7
  · simp [advanceCursor, hlast, unpulled]
  · have hnext : (c.bitIndex + 1).toNat = c.bitIndex.toNat + 1 := by bv_omega
    have hadv : advanceCursor c = { c with bitIndex := c.bitIndex + 1 } := if_neg hlast
    rw [hadv, unpulled_of_byte (c := { c with bitIndex := c.bitIndex + 1 }) h, hnext]

/-- A pull within the sequence returns the first bit not pulled yet and takes it off; at the end there is none, and the
cursor stays (R162, R163). -/
theorem pull_cases (bytes : List Byte) (c : BitCursor) :
    (∃ b c', pull bytes c = (.bit b, c') ∧ unpulled bytes c = b :: unpulled bytes c') ∨
    (pull bytes c = (.endOfStream, c) ∧ unpulled bytes c = []) := by
  cases h : bytes[c.byteIndex]? with
  | some v =>
    refine .inl ⟨getBit v c.bitIndex, advanceCursor c, by simp [pull, h], ?_⟩
    rw [unpulled_of_byte h, unpulled_advanceCursor h, List.drop_eq_getElem_cons c.bitIndex.isLt, byteBits_getElem,
      List.cons_append]
  | none =>
    have hend : bytes.drop c.byteIndex = [] := List.drop_eq_nil_of_le (List.getElem?_eq_none_iff.mp h)
    exact .inr ⟨by simp [pull, h], by simp [unpulled, hend]⟩

/-! SUPPORT. The moves on the bit queue, once each: when a move is permitted and what it does (R165 (b), (c)). -/

namespace BitQueue

variable {bytes : List Byte} {depth : Nat} {q q' : BitQueue}

/-- The producer waits on a full queue, and pushes the first bit not pulled yet (log entry 11). -/
theorem fire_push_iff : q.fire bytes depth .push = some q' ↔
    q.closed = false ∧ q.queue.length < depth ∧ ∃ b c, pull bytes q.cursor = (.bit b, c) ∧
      unpulled bytes q.cursor = b :: unpulled bytes c ∧ { q with cursor := c, queue := q.queue ++ [b] } = q' := by
  obtain ⟨b, c, hp, hu⟩ | ⟨hp, hu⟩ := pull_cases bytes q.cursor
  · simp [fire, hp, hu, and_assoc]
  · simp [fire, hp]

/-- The producer closes the queue once, after the last bit. -/
theorem fire_close_iff : q.fire bytes depth .close = some q' ↔
    q.closed = false ∧ unpulled bytes q.cursor = [] ∧ { q with closed := true } = q' := by
  obtain ⟨b, c, hp, hu⟩ | ⟨hp, hu⟩ := pull_cases bytes q.cursor <;> simp [fire, hp, hu]

/-- The consumer waits on an empty queue, and receives the oldest bit. -/
theorem fire_pop_iff : q.fire bytes depth .pop = some q' ↔
    ∃ b rest, q.queue = b :: rest ∧ { q with queue := rest, received := q.received ++ [b] } = q' := by
  cases h : q.queue <;> simp [fire, h]

/-- The consumer observes the end once, of a queue that is closed and empty. -/
theorem fire_observeEnd_iff : q.fire bytes depth .observeEnd = some q' ↔
    (q.queue = [] ∧ q.closed = true ∧ q.ended = false) ∧ { q with ended := true } = q' := by
  simp [fire]

/-- Until the end is observed one of the two tasks can move: the consumer on a queue that holds a bit or is closed, and
the producer on an empty open one, which is not full as the depth is at least 1. -/
theorem exists_fire_ne_none (hdepth : 0 < depth) (hended : q.ended = false) :
    ∃ m, q.fire bytes depth m ≠ none := by
  suffices ∃ m q', q.fire bytes depth m = some q' by
    obtain ⟨m, q', h⟩ := this
    exact ⟨m, by simp [h]⟩
  cases hqueue : q.queue with
  | cons b rest => exact ⟨.pop, _, fire_pop_iff.mpr ⟨b, rest, hqueue, rfl⟩⟩
  | nil =>
    cases hclosed : q.closed with
    | true => exact ⟨.observeEnd, _, fire_observeEnd_iff.mpr ⟨⟨hqueue, hclosed, hended⟩, rfl⟩⟩
    | false =>
      obtain ⟨b, c, hp, hu⟩ | ⟨-, hu⟩ := pull_cases bytes q.cursor
      · exact ⟨.push, _, fire_push_iff.mpr ⟨hclosed, by simpa [hqueue] using hdepth, b, c, hp, hu, rfl⟩⟩
      · exact ⟨.close, _, fire_close_iff.mpr ⟨hclosed, hu, rfl⟩⟩

/-! SUPPORT. What every move keeps, and what every move uses up. -/

/-- The queue on its way: received, queued and unpulled bits are the stream in order; it closes after the last bit, and
its end is observed when it is closed and empty. -/
structure InOrder (bytes : List Byte) (depth : Nat) (q : BitQueue) : Prop where
  stream : produce bytes = q.received ++ q.queue ++ unpulled bytes q.cursor
  bounded : q.queue.length ≤ depth
  unpulled_of_closed : q.closed = true → unpulled bytes q.cursor = []
  drained_of_ended : q.ended = true → q.queue = [] ∧ q.closed = true

theorem start_inOrder (bytes : List Byte) (depth : Nat) : InOrder bytes depth start where
  stream := rfl
  bounded := by simp [start]
  unpulled_of_closed := by simp [start]
  drained_of_ended := by simp [start]

theorem fire_keeps_inOrder {m : QueueMove} (h : q.fire bytes depth m = some q') (hq : InOrder bytes depth q) :
    InOrder bytes depth q' := by
  obtain ⟨hstream, hbounded, hclose, hend⟩ := hq
  cases m with
  | push =>
    obtain ⟨hopen, hroom, b, c, -, hu, rfl⟩ := fire_push_iff.mp h
    have hgoes : q.ended = false := by simpa [hopen] using hend
    exact ⟨by simp [hstream, hu], by simpa using hroom, by simp [hopen], by simp [hgoes]⟩
  | close =>
    obtain ⟨-, hu, rfl⟩ := fire_close_iff.mp h
    exact ⟨hstream, hbounded, fun _ => hu, fun he => ⟨(hend he).1, rfl⟩⟩
  | pop =>
    obtain ⟨b, rest, hqueue, rfl⟩ := fire_pop_iff.mp h
    have hgoes : q.ended = false := by simpa [hqueue] using hend
    rw [hqueue] at hstream hbounded
    exact ⟨by simp [hstream], Nat.le_of_succ_le hbounded, hclose, by simp [hgoes]⟩
  | observeEnd =>
    obtain ⟨⟨hqueue, hclosed, -⟩, rfl⟩ := fire_observeEnd_iff.mp h
    exact ⟨hstream, hbounded, hclose, fun _ => ⟨hqueue, hclosed⟩⟩

/-- The moves that remain: a push and a pop for each bit not pulled yet, a pop for each bit in the queue, the close and
the observation of the end. -/
def movesLeft (bytes : List Byte) (q : BitQueue) : Nat :=
  2 * (unpulled bytes q.cursor).length + q.queue.length + (!q.closed).toNat + (!q.ended).toNat

@[simp] theorem movesLeft_start (bytes : List Byte) : movesLeft bytes start = 2 * (produce bytes).length + 2 := rfl

/-- Every move uses up one of the moves that remain. -/
theorem fire_movesLeft {m : QueueMove} (h : q.fire bytes depth m = some q') :
    movesLeft bytes q = movesLeft bytes q' + 1 := by
  cases m with
  | push =>
    obtain ⟨-, -, b, c, -, hu, rfl⟩ := fire_push_iff.mp h
    simp only [movesLeft, hu, List.length_cons, List.length_append, List.length_nil]
    omega
  | close =>
    obtain ⟨hopen, -, rfl⟩ := fire_close_iff.mp h
    simp only [movesLeft, hopen, Bool.not_false, Bool.not_true, Bool.toNat_true, Bool.toNat_false]
    omega
  | pop =>
    obtain ⟨b, rest, hqueue, rfl⟩ := fire_pop_iff.mp h
    simp only [movesLeft, hqueue, List.length_cons]
    omega
  | observeEnd =>
    obtain ⟨⟨-, -, hgoes⟩, rfl⟩ := fire_observeEnd_iff.mp h
    simp only [movesLeft, hgoes, Bool.not_false, Bool.not_true, Bool.toNat_true, Bool.toNat_false]

theorem run_cons_iff {m : QueueMove} {ms : List QueueMove} {r : BitQueue} :
    q.run bytes depth (m :: ms) = some r ↔ ∃ q', q.fire bytes depth m = some q' ∧ q'.run bytes depth ms = some r := by
  cases h : q.fire bytes depth m <;> simp [run, h]

/-- An interleaving keeps the order of the stream and uses up one remaining move per move made. -/
theorem run_keeps_inOrder_and_movesLeft {moves : List QueueMove} {r : BitQueue}
    (h : q.run bytes depth moves = some r) (hq : InOrder bytes depth q) :
    InOrder bytes depth r ∧ movesLeft bytes q = movesLeft bytes r + moves.length := by
  induction moves generalizing q with
  | nil =>
    cases h
    exact ⟨hq, rfl⟩
  | cons m ms ih =>
    obtain ⟨q', hfire, hrun⟩ := run_cons_iff.mp h
    obtain ⟨hr, hleft⟩ := ih hrun (fire_keeps_inOrder hfire hq)
    refine ⟨hr, ?_⟩
    rw [fire_movesLeft hfire, hleft, List.length_cons, Nat.add_assoc]

/-- When the end is observed everything is received: the queue is empty and no bit is left to pull. -/
theorem InOrder.received_of_ended (h : InOrder bytes depth q) (hended : q.ended = true) :
    q.received = produce bytes := by
  obtain ⟨hqueue, hclosed⟩ := h.drained_of_ended hended
  simp [h.stream, hqueue, h.unpulled_of_closed hclosed]

end BitQueue

/-- Settles O16: every move keeps the order of the stream, and one of the two tasks has a move until none remains. -/
theorem queueDeliversTheStreamInOrder : Obligations.QueueDeliversTheStreamInOrder := by
  intro bytes depth moves q hdepth hrun
  obtain ⟨hq, hleft⟩ := BitQueue.run_keeps_inOrder_and_movesLeft hrun (BitQueue.start_inOrder bytes depth)
  rw [BitQueue.movesLeft_start] at hleft
  exact ⟨⟨_, hq.stream⟩, hq.received_of_ended, hq.bounded, BitQueue.exists_fire_ne_none hdepth, by omega⟩

end Sys2Proof.Machine

/-! SUPPORT. What one step can do, once: every next state of `step` by the host's line or the engine that made it (R79,
R226, R227). -/

namespace Sys2Proof.Machine

/-- The number of a register (R21). -/
def Register.number : Register → Byte
  | .cmd => 0
  | .status => 1
  | .err => 2
  | .width => 3
  | .height => 4
  | .msglen => 5
  | .capacity => 6

/-- A register number names the register it is the number of, and no other. -/
theorem registerOf_eq_some_iff (n : Byte) (r : Register) : registerOf n = some r ↔ n = r.number := by
  constructor
  · intro h
    unfold registerOf at h
    split at h <;> cases h <;> exact BitVec.eq_of_toNat_eq ‹_›
  · rintro rfl
    cases r <;> rfl

/-- The numbers 7 to 255 are no register's (R21). -/
theorem registerOf_eq_none {n : Byte} (h : 7 ≤ n.toNat) : registerOf n = none := by
  unfold registerOf
  split
  case h_8 => rfl
  all_goals omega

/-- `s` with other contents of the model's own fields. -/
def State.withHost (s : State) (script : List HostLine) (reply : Option Word) (draws : Nat) : State :=
  { s with script := script, reply := reply, draws := draws }

theorem State.answerReg_eq_withHost {w : Nat} (s : State) (r : Reg w) :
    ∃ reply draws, s.answerReg r = s.withHost s.script reply draws := by
  unfold State.answerReg
  split <;> exact ⟨_, _, rfl⟩

/-- A register read changes the model's own fields alone. -/
theorem readRegister_eq_withHost (s : State) (n : Byte) :
    ∃ reply draws, readRegister s n = s.withHost s.script reply draws := by
  unfold readRegister
  cases registerOf n with
  | none => exact ⟨_, _, rfl⟩
  | some r =>
    cases r with
    | width => exact s.answerReg_eq_withHost s.width
    | height => exact s.answerReg_eq_withHost s.height
    | msglen => exact s.answerReg_eq_withHost s.msglen
    | capacity => exact s.answerReg_eq_withHost s.capacity
    | _ => exact ⟨_, _, rfl⟩

theorem State.answerByte_eq_withHost (s : State) (v : Option Byte) :
    ∃ reply draws, s.answerByte v = s.withHost s.script reply draws := by
  cases v <;> exact ⟨_, _, rfl⟩

/-- How a step comes from `s` to a next state: one constructor per kind of turn, with the host's line where a statement
asks which line it was. -/
inductive StepCase (s : State) : State → Prop
  /-- A read, a write that is ignored, a wait, an idle line, or no line at all. -/
  | ownFields (script reply draws) : StepCase s (s.withHost script reply draws)
  /-- A micro-step of the running command. -/
  | engine (script reply) {t} (busy : s.status = .busy)
      (micro : microStep (s.withHost script reply s.draws) = .next t) : StepCase s t
  | reset {rest} (line : s.script = .reset :: rest) : StepCase s (s.take rest).resetBlock
  | wrWidth {rest v} (line : s.script = .wr 3 v :: rest) (free : s.status ≠ .busy) :
      StepCase s { s.take rest with width := { val := v.extractLsb' 0 16, held := true }, pix := [] }
  | wrHeight {rest v} (line : s.script = .wr 4 v :: rest) (free : s.status ≠ .busy) :
      StepCase s { s.take rest with height := { val := v.extractLsb' 0 16, held := true }, pix := [] }
  | wrMsglen (rest v) (free : s.status ≠ .busy) :
      StepCase s { s.take rest with msglen := { val := v, held := true } }
  /-- A command from launch to completion (R223). -/
  | command {rest v i t} (line : s.script = .wr 0 v :: rest) (free : s.status ≠ .busy)
      (code : decode (commandByte v) = .ok i) (run : exec i (s.take rest) = .next t) : StepCase s t
  /-- A launch alone (R223). -/
  | launch {rest v i t} (line : s.script = .launch v :: rest) (free : s.status ≠ .busy)
      (code : decode (commandByte v) = .ok i) (run : launchOnly i (s.take rest) = .next t) : StepCase s t
  /-- An illegal code or a pixel access out of bounds (R243, R244). -/
  | error (script reply draws) {e} (free : s.status ≠ .busy) (he : e ≠ .none) :
      StepCase s ((s.raise e).withHost script reply draws)
  | pixWrite {rest x y c v} (line : s.script = .pixw x y c v :: rest) (free : s.status ≠ .busy)
      (held : s.gridHeld = true) (bounds : s.inGrid x.toNat y.toNat = true) :
      StepCase s ((s.take rest).pixStore x.toNat y.toNat c.toNat v)
  | msgWrite (rest v) {i : Word} (free : s.status ≠ .busy) (bounds : i.toNat < Config.msgbufBytes) :
      StepCase s ((s.take rest).msgStore i.toNat v)

theorem writeCommand_ok {s : State} {v : Word} {i : Instr} (h : decode (commandByte v) = .ok i) :
    writeCommand s v = exec i s := by
  simp [writeCommand, h]

/-- The next states of a launch: those of the decoded command, or IllegalCommand (R220, R244). -/
theorem writeCommand_cases {s t : State} {v : Word} (h : writeCommand s v = .next t) :
    (∃ i, decode (commandByte v) = .ok i ∧ exec i s = .next t) ∨ t = s.begin.raise .illegalCommand := by
  unfold writeCommand at h
  split at h
  · rename_i i hi
    exact .inl ⟨i, hi, h⟩
  · cases h
    exact .inr rfl

theorem writeCommandPaced_cases {s t : State} {v : Word} (h : writeCommandPaced s v = .next t) :
    (∃ i, decode (commandByte v) = .ok i ∧ launchOnly i s = .next t) ∨ t = s.begin.raise .illegalCommand := by
  unfold writeCommandPaced at h
  split at h
  · rename_i i hi
    exact .inl ⟨i, hi, h⟩
  · cases h
    exact .inr rfl

/-- The next states of a register write, by the register its number names (R21). -/
theorem writeRegister_cases {s t : State} {rest : List HostLine} {n : Byte} {v : Word}
    (line : s.script = .wr n v :: rest) (free : s.status ≠ .busy)
    (h : writeRegister (s.take rest) n v = .next t) : StepCase s t := by
  unfold writeRegister at h
  cases hn : registerOf n with
  | none =>
    simp only [hn, Host.Outcome.next.injEq] at h
    subst h
    exact .ownFields rest none s.draws
  | some r =>
    obtain rfl := (registerOf_eq_some_iff n r).mp hn
    cases r with
    | cmd =>
      obtain ⟨i, hi, hrun⟩ | rfl := writeCommand_cases h
      · exact .command line free hi hrun
      · exact .error rest none s.draws free (e := .illegalCommand) (by simp)
    | width =>
      cases h
      exact .wrWidth line free
    | height =>
      cases h
      exact .wrHeight line free
    | msglen =>
      cases h
      exact .wrMsglen rest v free
    | _ =>
      cases h
      exact .ownFields rest none s.draws

theorem hostPixWrite_cases {s t : State} {x y : Half} {c : Chan} {v : Byte} (h : hostPixWrite s x y c v = .next t) :
    s.gridHeld = true ∧ ((s.inGrid x.toNat y.toNat = false ∧ t = s.raise .gridBounds) ∨
      (s.inGrid x.toNat y.toNat = true ∧ t = s.pixStore x.toNat y.toNat c.toNat v)) := by
  unfold hostPixWrite at h
  split at h
  · cases h
  · rename_i hg
    refine ⟨by simpa using hg, ?_⟩
    split at h <;> cases h
    · exact .inl ⟨‹_›, rfl⟩
    · rename_i hin
      exact .inr ⟨by simpa using hin, rfl⟩

theorem hostPixRead_cases {s t : State} {x y : Half} {c : Chan} (h : hostPixRead s x y c = .next t) :
    ∃ reply draws, t = s.withHost s.script reply draws ∨ t = (s.raise .gridBounds).withHost s.script reply draws := by
  unfold hostPixRead at h
  split at h
  · cases h
  · split at h <;> cases h
    · obtain ⟨reply, draws, ha⟩ := (s.raise .gridBounds).answerByte_eq_withHost none
      exact ⟨reply, draws, .inr ha⟩
    · obtain ⟨reply, draws, ha⟩ := s.answerByte_eq_withHost (s.pixByte x.toNat y.toNat c.toNat)
      exact ⟨reply, draws, .inl ha⟩

/-- The next states of a host move while STATUS is not BUSY (R227). -/
theorem hostMove_cases {s t : State} {l : HostLine} {rest : List HostLine} (line : s.script = l :: rest)
    (free : s.status ≠ .busy) (h : hostMove (s.take rest) l = .next t) : StepCase s t := by
  cases l with
  | wr n v => exact writeRegister_cases line free h
  | launch v =>
    obtain ⟨i, hi, hrun⟩ | rfl := writeCommandPaced_cases h
    · exact .launch line free hi hrun
    · exact .error rest none s.draws free (e := .illegalCommand) (by simp)
  | rd n =>
    obtain ⟨reply, draws, hr⟩ := readRegister_eq_withHost (s.take rest) n
    cases h
    rw [hr]
    exact .ownFields rest reply draws
  | pixw x y c v =>
    obtain ⟨held, ⟨-, rfl⟩ | ⟨bounds, rfl⟩⟩ := hostPixWrite_cases h
    · exact .error rest none s.draws free (e := .gridBounds) (by simp)
    · exact .pixWrite line free held bounds
  | pixr x y c =>
    obtain ⟨reply, draws, rfl | rfl⟩ := hostPixRead_cases h
    · exact .ownFields rest reply draws
    · exact .error rest reply draws free (e := .gridBounds) (by simp)
  | msgw i v =>
    simp only [hostMove, hostMsgWrite] at h
    split at h <;> cases h
    exact .msgWrite rest v free ‹_›
  | msgr i =>
    simp only [hostMove, hostMsgRead] at h
    split at h <;> cases h
    obtain ⟨reply, draws, ha⟩ := (s.take rest).answerByte_eq_withHost ((s.take rest).msgByte i.toNat)
    rw [ha]
    exact .ownFields rest reply draws
  | wait =>
    cases h
    exact .ownFields rest _ s.draws
  | idle =>
    cases h
    exact .ownFields rest none s.draws
  | reset =>
    cases h
    exact .reset line

/-- The next states of a turn while STATUS is BUSY: a read of STATUS, a micro-step, or a reset (R226). -/
theorem busyTurn_cases {s t : State} {l : HostLine} {rest : List HostLine} (line : s.script = l :: rest)
    (busy : s.status = .busy) (h : busyTurn (s.take rest) s l = .next t) : StepCase s t := by
  cases l with
  | rd n =>
    simp only [busyTurn] at h
    split at h <;> cases h
    obtain ⟨reply, draws, hr⟩ := readRegister_eq_withHost (s.take rest) n
    rw [hr]
    exact .ownFields rest reply draws
  | wait => exact .engine s.script _ busy h
  | idle => exact .engine rest none busy h
  | reset =>
    cases h
    exact .reset line
  | _ => cases h

/-- The next states of a step (R79). -/
theorem step_cases {s t : State} (h : step s = .next t) : StepCase s t := by
  unfold step turn at h
  split at h
  · split at h
    · rename_i busy
      exact .engine s.script s.reply busy h
    · cases h
      exact .ownFields s.script s.reply s.draws
  · rename_i l rest line
    split at h
    · rename_i busy
      exact busyTurn_cases line busy h
    · rename_i free
      exact hostMove_cases line free h

end Sys2Proof.Machine

/-! SUPPORT. The parts of the invariant: what each depends on, and which updates of the state keep it. -/

namespace Sys2Proof.Machine

/-- The parts of `State.sound` by name. -/
structure Sound (s : State) : Prop where
  pix : s.pixSound = true
  msg : s.msgSound = true
  status : s.statusSound = true
  ch : s.ch ≠ 3
  phase : s.phaseSound = true
  capacity : s.capacitySound = true

theorem sound_iff (s : State) : s.sound = true ↔ Sound s := by
  simp only [State.sound, Bool.and_eq_true, decide_eq_true_eq]
  constructor
  · rintro ⟨⟨⟨⟨⟨hpix, hmsg⟩, hstatus⟩, hch⟩, hphase⟩, hcap⟩
    exact ⟨hpix, hmsg, hstatus, hch, hphase, hcap⟩
  · rintro ⟨hpix, hmsg, hstatus, hch, hphase, hcap⟩
    exact ⟨⟨⟨⟨⟨hpix, hmsg⟩, hstatus⟩, hch⟩, hphase⟩, hcap⟩

/-! ### PIX (R30, R65) -/

theorem State.pixSound_iff (s : State) : s.pixSound = true ↔
    Memory.wf s.pix = true ∧ (∀ cell ∈ s.pix, pixKeyInGrid s.w s.h cell.1 = true) ∧
      (s.gridHeld = true ∨ s.pix = []) := by
  simp [State.pixSound, and_assoc]

theorem State.pixSound_of_empty {s : State} (h : s.pix = []) : s.pixSound = true := by
  simp [State.pixSound, h]

/-- The soundness of PIX depends on WIDTH, HEIGHT and PIX alone. -/
theorem State.pixSound_congr {s t : State} (hw : t.width = s.width) (hh : t.height = s.height) (hp : t.pix = s.pix) :
    t.pixSound = s.pixSound := by
  simp only [State.pixSound, State.gridHeld, State.w, State.h, hw, hh, hp]

/-- A store in bounds keeps PIX sound (R64, R65). -/
theorem State.pixSound_pixStore {s : State} {x y c : Nat} (v : Byte) (hs : s.pixSound = true)
    (held : s.gridHeld = true) (bounds : s.inGrid x y = true) (hc : c < 4) :
    (s.pixStore x y c v).pixSound = true := by
  obtain ⟨hwf, hkeys, -⟩ := s.pixSound_iff.mp hs
  have hxy := (s.inGrid_iff x y).mp bounds
  refine (State.pixSound_iff _).mpr ⟨Memory.wf_write _ _ _ hwf, fun cell hcell => ?_, .inl held⟩
  obtain hkey | hold := Memory.mem_write _ _ _ _ hcell
  · rw [hkey]
    exact (pixKeyInGrid_pixKey _ _ (hxy.2.trans s.h_lt) hc).mpr hxy
  · exact hkeys cell hold

theorem carrierPlace_c_lt (h k : Nat) : (carrierPlace h k).c < 3 := Nat.mod_lt k (by omega)

/-- The loop of ENC keeps PIX sound (R179). -/
theorem State.embed_pixSound {s t : State} {n : Nat} (hs : s.pixSound = true) (held : s.gridHeld = true)
    (h : s.embed n = some t) : t.pixSound = true := by
  induction n generalizing t with
  | zero =>
    cases h
    exact hs
  | succ n ih =>
    simp only [State.embed] at h
    split at h
    · rename_i r hr
      obtain ⟨v, b, hv, -, rfl⟩ := State.embedBit_cases h
      have hheld : r.gridHeld = true := by rw [State.embed_frame hr]; exact held
      have hc := carrierPlace_c_lt r.h n
      exact State.pixSound_pixStore _ (ih hr) hheld (State.carrier_inGrid hv).1 (by omega)
    · cases h

/-! ### MSG (R33) -/

theorem State.msgSound_iff (s : State) : s.msgSound = true ↔
    Memory.wf s.msg = true ∧ ∀ cell ∈ s.msg, cell.1 < Config.msgbufBytes := by
  simp [State.msgSound]

theorem State.msgSound_congr {s t : State} (h : t.msg = s.msg) : t.msgSound = s.msgSound := by
  simp only [State.msgSound, h]

theorem State.msgSound_of_empty {s : State} (h : s.msg = []) : s.msgSound = true := by
  simp [State.msgSound, h]

theorem State.msgSound_msgStore {s : State} {i : Nat} (v : Byte) (hs : s.msgSound = true)
    (hi : i < Config.msgbufBytes) : (s.msgStore i v).msgSound = true := by
  obtain ⟨hwf, hkeys⟩ := s.msgSound_iff.mp hs
  refine (State.msgSound_iff _).mpr ⟨Memory.wf_write _ _ _ hwf, fun cell hcell => ?_⟩
  obtain hkey | hold := Memory.mem_write _ _ _ _ hcell
  · omega
  · exact hkeys cell hold

/-- The loop of DEC keeps MSG sound. -/
theorem State.extract_msgSound {s t : State} {n : Nat} (hs : s.msgSound = true) (hn : n ≤ Config.msgbufBytes)
    (h : s.extract n = some t) : t.msgSound = true := by
  induction n generalizing t with
  | zero =>
    cases h
    exact hs
  | succ n ih =>
    simp only [State.extract] at h
    split at h
    · rename_i r v hr hv
      cases h
      exact State.msgSound_msgStore v (ih (by omega) hr) hn
    · cases h

/-! ### STATUS, ERR and PHASE at rest (R23, R24, R36) -/

theorem State.statusSound_iff (s : State) : s.statusSound = true ↔
    (s.phase = .idle ↔ s.status ≠ .busy) ∧ (s.err = .none ↔ s.status ≠ .fail) := by
  simp only [State.statusSound, Bool.and_eq_true, beq_iff_eq, ← decide_not, decide_eq_decide, ne_eq]

/-- No command is running, and ERR names an error exactly when STATUS is FAIL. -/
structure State.AtRest (s : State) : Prop where
  phase : s.phase = .idle
  status : s.status ≠ .busy
  err : s.err = .none ↔ s.status ≠ .fail

theorem Sound.atRest {s : State} (hs : Sound s) (free : s.status ≠ .busy) : s.AtRest :=
  have h := s.statusSound_iff.mp hs.status
  ⟨h.1.mpr free, free, h.2⟩

theorem Sound.phase_ne_idle {s : State} (hs : Sound s) (busy : s.status = .busy) : s.phase ≠ .idle := fun h =>
  (s.statusSound_iff.mp hs.status).1.mp h busy

theorem Sound.busy {s : State} (hs : Sound s) (h : s.phase ≠ .idle) : s.status = .busy := by
  by_contra free
  exact h ((s.statusSound_iff.mp hs.status).1.mpr free)

/-- At rest the sequencer registers are bound by nothing but CH. -/
theorem Sound.of_atRest {s : State} (rest : s.AtRest) (pix : s.pixSound = true) (msg : s.msgSound = true)
    (ch : s.ch ≠ 3) (capacity : s.capacitySound = true) : Sound s where
  pix := pix
  msg := msg
  status := s.statusSound_iff.mpr ⟨iff_of_true rest.phase rest.status, rest.err⟩
  ch := ch
  phase := by simp [State.phaseSound, rest.phase]
  capacity := capacity

theorem State.raise_atRest (s : State) {e : ErrCode} (he : e ≠ .none) : (s.raise e).AtRest :=
  ⟨rfl, by simp, by simpa using he⟩

theorem State.failDecode_atRest (s : State) : s.failDecode.AtRest := ⟨rfl, by simp, by simp⟩

theorem State.complete_atRest {s : State} (h : s.err = .none) : s.complete.AtRest := ⟨rfl, by simp, by simpa using h⟩

/-- An error changes nothing that the invariant at rest speaks of (R246). -/
theorem Sound.raise {s : State} (hs : Sound s) {e : ErrCode} (he : e ≠ .none) : Sound (s.raise e) :=
  .of_atRest (s.raise_atRest he) hs.pix hs.msg hs.ch hs.capacity

/-- A failed DEC leaves MSG without values (R203). -/
theorem Sound.failDecode {s : State} (pix : s.pixSound = true) (ch : s.ch ≠ 3) (capacity : s.capacitySound = true) :
    Sound s.failDecode :=
  .of_atRest s.failDecode_atRest pix (State.msgSound_of_empty rfl) ch capacity

/-! ### The cursors (R39, R42) -/

theorem ofNat_carrierPlace_c_ne (h k : Nat) : BitVec.ofNat 2 (carrierPlace h k).c ≠ 3 := by
  have := carrierPlace_c_lt h k
  bv_omega

theorem State.cursorsAgree_iff (s : State) : s.cursorsAgree = true ↔
    s.cx.toNat = (carrierPlace s.h s.moved).x ∧ s.cy.toNat = (carrierPlace s.h s.moved).y ∧
      s.ch.toNat = (carrierPlace s.h s.moved).c := by
  simp [State.cursorsAgree, and_assoc]

/-- The carrier places of the grid, and the one after its last bit, fit the cursors (R37, R38). -/
theorem State.carrierPlace_bounds {s : State} {k : Nat} (h0 : 0 < s.h) (hk : k ≤ s.carriers) :
    (carrierPlace s.h k).x < 2 ^ 16 ∧ (carrierPlace s.h k).y < 2 ^ 16 ∧ (carrierPlace s.h k).c < 2 ^ 2 := by
  have hx : (carrierPlace s.h k).x ≤ s.w := by
    have hle : k / 3 ≤ s.w * s.h := by
      have : s.carriers = 3 * (s.w * s.h) := Nat.mul_assoc 3 s.w s.h
      omega
    exact Nat.div_le_of_le_mul (by rwa [Nat.mul_comm])
  have hy : (carrierPlace s.h k).y < s.h := Nat.mod_lt _ h0
  have := carrierPlace_c_lt s.h k
  have := s.w_lt
  have := s.h_lt
  omega

theorem State.carriers_lt (s : State) : s.carriers < 2 ^ 34 := by
  have h := Nat.mul_le_mul (Nat.le_of_lt_succ s.w_lt) (Nat.le_of_lt_succ s.h_lt)
  have : s.carriers = 3 * (s.w * s.h) := Nat.mul_assoc 3 s.w s.h
  omega

/-- The advance after a bit counts it (R40, R41). -/
theorem State.moved_advance {s : State} (h : s.moved < s.carriers) : s.advance.moved = s.moved + 1 := by
  have hlt := s.carriers_lt
  simp only [State.moved, State.advance_byteIdx, State.advance_bitIdx] at h ⊢
  split <;> bv_omega

/-- The advance after a bit of the grid takes the cursors to the next (R42, R178, R201). -/
theorem State.cursorsAgree_advance {s : State} (hs : s.cursorsAgree = true) (h : s.moved < s.carriers) :
    s.advance.cursorsAgree = true := by
  obtain ⟨hx, hy, hc⟩ := s.cursorsAgree_iff.mp hs
  have h0 : 0 < s.h := Nat.pos_of_mul_pos_left (Nat.zero_lt_of_lt h)
  have hnext : advanceCarousel s.h { x := s.cx.toNat, y := s.cy.toNat, c := s.ch.toNat } =
      carrierPlace s.h (s.moved + 1) := by
    rw [hx, hy, hc]
    exact advanceCarousel_carrierPlace s.h s.moved h0
  obtain ⟨hbx, hby, hbc⟩ := State.carrierPlace_bounds h0 (Nat.succ_le_of_lt h)
  rw [State.cursorsAgree_iff, State.moved_advance h]
  simp only [State.advance_cx, State.advance_cy, State.advance_ch, State.advance_h, hnext, BitVec.toNat_ofNat,
    Nat.mod_eq_of_lt hbx, Nat.mod_eq_of_lt hby, Nat.mod_eq_of_lt hbc, and_self]

theorem State.ch_ne_alpha {s : State} (h : s.cursorsAgree = true) : s.ch ≠ 3 := by
  obtain ⟨-, -, hc⟩ := s.cursorsAgree_iff.mp h
  have := carrierPlace_c_lt s.h s.moved
  bv_omega

/-! ### CAPACITY (R130) -/

theorem State.capacitySound_iff (s : State) : s.capacitySound = true ↔
    s.capacity.held = false ∨ s.capacity.val = 0 ∨ 4 ≤ s.capacity.val.toNat := by
  simp [State.capacitySound, or_assoc]

theorem State.capacitySound_congr {s t : State} (h : t.capacity = s.capacity) : t.capacitySound = s.capacitySound := by
  simp only [State.capacitySound, h]

/-- The capacity of a grid fits CAPACITY (R131). -/
theorem State.maxEncodeSize_lt (s : State) : maxEncodeSize s.w s.h < 2 ^ 32 := by
  have := s.carriers_lt
  rw [State.carriers_eq] at this
  simp only [maxEncodeSize]
  split <;> omega

theorem maxEncodeSize_eq_zero_or (w h : Nat) : maxEncodeSize w h = 0 ∨ 4 ≤ maxEncodeSize w h := by
  simp only [maxEncodeSize]
  split <;> omega

end Sys2Proof.Machine

/-! SUPPORT. The commands, the launches and the micro-steps keep the invariant, and a micro-step counts its bit. -/

namespace Sys2Proof.Machine

/-! ### Each phase's part of the invariant, and the room it leaves in the grid -/

theorem State.phaseSound_encRun {s : State} (h : s.phase = .encRun) : s.phaseSound = true ↔
    s.encHeld = true ∧ s.admits = true ∧ s.cursorsAgree = true ∧ s.hdr = splitToBytes s.msglen.val ∧
      s.eos = endOfStream s.byteIdx s.msglen.val ∧ s.moved ≤ framedBits s.len := by
  simp [State.phaseSound, h, and_assoc]

theorem State.phaseSound_decHdr {s : State} (h : s.phase = .decHdr) : s.phaseSound = true ↔
    s.gridHeld = true ∧ s.holdsHeader = true ∧ s.cursorsAgree = true ∧ s.moved < 32 := by
  simp [State.phaseSound, h, and_assoc]

theorem State.phaseSound_decPay {s : State} (h : s.phase = .decPay) : s.phaseSound = true ↔
    s.gridHeld = true ∧ s.msglen.held = true ∧ s.holdsFramed s.len = true ∧ s.cursorsAgree = true ∧ 32 ≤ s.moved ∧
      s.moved ≤ framedBits s.len := by
  simp [State.phaseSound, h, and_assoc]

theorem State.holdsHeader_iff (s : State) : s.holdsHeader = true ↔ 32 ≤ s.carriers := by
  simp [State.holdsHeader]

theorem State.holdsFramed_iff (s : State) (n : Nat) : s.holdsFramed n = true ↔ framedBits n ≤ s.carriers := by
  simp [State.holdsFramed]

/-- An admitted message has its framed bits in the grid (R171, R179). -/
theorem State.framedBits_le_carriers {s : State} (h : s.admits = true) : framedBits s.len ≤ s.carriers := by
  have hadm : s.len + 4 ≤ maxEncodeSize s.w s.h := by simpa [State.admits] using h
  simp only [maxEncodeSize] at hadm
  rw [State.carriers_eq]
  unfold framedBits
  split at hadm <;> omega

/-- Before the end of the stream some framed bit is left (R45). -/
theorem State.moved_lt_framedBits {s : State} (hle : s.moved ≤ framedBits s.len) (h : s.byteIdx.toNat ≠ s.len + 4) :
    s.moved < framedBits s.len := by
  have := s.bitIdx.isLt
  unfold State.moved framedBits at *
  omega

theorem endOfStream_eq_false_iff (i n : Word) : endOfStream i n = false ↔ i.toNat ≠ n.toNat + 4 := by
  simp [endOfStream]

theorem State.encHeld_iff (s : State) : s.encHeld = true ↔ s.gridHeld = true ∧ s.msglen.held = true := by
  simp [State.encHeld]

/-! ### The commands from launch to completion -/

theorem execCap_sound {s t : State} (hs : Sound s) (h : execCap s = .next t) : Sound t := by
  obtain ⟨-, rfl⟩ := execCap_cases h
  have hcap : maxEncodeSize s.w s.h % 2 ^ 32 = maxEncodeSize s.w s.h := Nat.mod_eq_of_lt s.maxEncodeSize_lt
  refine .of_atRest ⟨rfl, by simp, by simp⟩ hs.pix hs.msg hs.ch ((State.capacitySound_iff _).mpr (.inr ?_))
  obtain h0 | h4 := maxEncodeSize_eq_zero_or s.w s.h
  · exact .inl (by simp [h0])
  · exact .inr (by simpa only [BitVec.toNat_ofNat, hcap] using h4)

theorem execEnc_sound {s t : State} (hs : Sound s) (h : execEnc s = .next t) : Sound t := by
  obtain ⟨held, ⟨-, rfl⟩ | ⟨-, -, r, hr, rfl⟩⟩ := execEnc_cases h
  · exact .of_atRest (s.begin.raise_atRest (by simp)) hs.pix hs.msg hs.ch hs.capacity
  · have hframe := State.embed_frame hr
    have hpix : r.pixSound = true := State.embed_pixSound hs.pix (s.encHeld_iff.mp held).1 hr
    refine .of_atRest ⟨rfl, by simp, by simp⟩ hpix ?_ ?_ ?_
    · rw [State.msgSound_congr (s := s) (by rw [hframe]; rfl)]
      exact hs.msg
    · exact ofNat_carrierPlace_c_ne _ _
    · rw [State.capacitySound_congr (s := s) (by rw [hframe]; rfl)]
      exact hs.capacity

theorem execDec_sound {s t : State} (hs : Sound s) (h : execDec s = .next t) : Sound t := by
  obtain ⟨-, ⟨-, rfl⟩ | ⟨-, -, hd, -, ⟨-, rfl⟩ | ⟨-, -, r, b, hr, -, rfl⟩⟩⟩ := execDec_cases h
  · exact .failDecode hs.pix hs.ch hs.capacity
  · exact .failDecode hs.pix (ofNat_carrierPlace_c_ne _ _) hs.capacity
  · have hframe := State.extract_frame hr
    have hmsg : r.msgSound = true := State.extract_msgSound hs.msg (Nat.le_of_not_lt (msgbuf_ok _)) hr
    refine .of_atRest ⟨rfl, by simp, by simp⟩ ?_ hmsg (ofNat_carrierPlace_c_ne _ _) ?_
    · rw [State.pixSound_congr (s := s) (by rw [hframe]; rfl) (by rw [hframe]; rfl) (by rw [hframe]; rfl)]
      exact hs.pix
    · rw [State.capacitySound_congr (s := s) (by rw [hframe]; rfl)]
      exact hs.capacity

theorem exec_sound {i : Instr} {s t : State} (hs : Sound s) (h : exec i s = .next t) : Sound t := by
  cases i with
  | cap => exact execCap_sound hs h
  | enc => exact execEnc_sound hs h
  | dec => exact execDec_sound hs h

/-! ### The launches alone -/

/-- The cursors of a running command agree (R42). -/
theorem Sound.cursorsAgree {s : State} (hs : Sound s) (busy : s.status = .busy) : s.cursorsAgree = true := by
  have hphase := hs.phase
  cases hp : s.phase with
  | idle => exact absurd hp (hs.phase_ne_idle busy)
  | encRun =>
    obtain ⟨-, -, hcur, -⟩ := (State.phaseSound_encRun hp).mp hphase
    exact hcur
  | decHdr =>
    obtain ⟨-, -, hcur, -⟩ := (State.phaseSound_decHdr hp).mp hphase
    exact hcur
  | decPay =>
    obtain ⟨-, -, -, hcur, -⟩ := (State.phaseSound_decPay hp).mp hphase
    exact hcur

/-- The cursors agree at the first bit (R35). -/
theorem State.cursorsAgree_start (s : State) (p : Phase) : (s.start p).cursorsAgree = true := by
  have hmoved : (s.start p).moved = 0 := by simp [State.moved]
  rw [State.cursorsAgree_iff, hmoved]
  simp [carrierPlace_zero]

theorem launchEnc_sound {s t : State} (hs : Sound s) (h : launchEnc s = .next t) : Sound t := by
  obtain ⟨t', ht', ⟨-, rfl⟩ | ⟨hadm, rfl⟩⟩ := launchEnc_cases h
  · exact .of_atRest (s.begin.raise_atRest (by simp)) hs.pix hs.msg hs.ch hs.capacity
  · have hcur := s.begin.cursorsAgree_start .encRun
    have hmoved : (s.begin.start .encRun).moved ≤ framedBits s.len := by simp [State.moved]
    exact ⟨hs.pix, hs.msg, by simp [State.statusSound], State.ch_ne_alpha hcur,
      (State.phaseSound_encRun rfl).mpr ⟨(execEnc_cases ht').1, hadm, hcur, rfl, rfl, hmoved⟩, hs.capacity⟩

theorem launchDec_sound {s t : State} (hs : Sound s) (h : launchDec s = .next t) : Sound t := by
  obtain ⟨t', ht', ⟨-, rfl⟩ | ⟨hroom, rfl⟩⟩ := launchDec_cases h
  · exact .failDecode hs.pix hs.ch hs.capacity
  · have hcur := s.begin.cursorsAgree_start .decHdr
    exact ⟨hs.pix, hs.msg, by simp [State.statusSound], State.ch_ne_alpha hcur,
      (State.phaseSound_decHdr rfl).mpr ⟨(execDec_cases ht').1, hroom, hcur, by simp [State.moved]⟩, hs.capacity⟩

theorem launchOnly_sound {i : Instr} {s t : State} (hs : Sound s) (h : launchOnly i s = .next t) : Sound t := by
  cases i with
  | cap => exact execCap_sound hs h
  | enc => exact launchEnc_sound hs h
  | dec => exact launchDec_sound hs h

/-! ### The micro-steps -/

/-- The state after a micro-step: sound, and one bit further unless the command has ended. -/
structure SoundMove (s t : State) : Prop where
  sound : Sound t
  moved : t.status = .busy → t.moved = s.moved + 1

/-- A command that has ended moves no bit. -/
theorem SoundMove.of_ended {s t : State} (sound : Sound t) (free : t.status ≠ .busy) : SoundMove s t :=
  ⟨sound, fun busy => absurd busy free⟩

theorem Sound.err_none {s : State} (hs : Sound s) (busy : s.status = .busy) : s.err = .none :=
  (s.statusSound_iff.mp hs.status).2.mpr (by simp [busy])

/-- The end of the stream completes a running command (R178, R201). -/
theorem Sound.complete {s : State} (hs : Sound s) (busy : s.status = .busy) : Sound s.complete :=
  .of_atRest (State.complete_atRest (hs.err_none busy)) hs.pix hs.msg hs.ch hs.capacity

theorem encMicroStep_soundMove {s t : State} (hs : Sound s) (hp : s.phase = .encRun)
    (h : encMicroStep s = .next t) : SoundMove s t := by
  obtain ⟨held, hadm, hcur, hhdr, -, hle⟩ := (State.phaseSound_encRun hp).mp hs.phase
  obtain ⟨-, rfl⟩ | ⟨-, -, rfl⟩ | ⟨hgo, hin, byte, v, r, -, -, rfl, rfl⟩ := encMicroStep_cases h
  · exact .of_ended (hs.complete (hs.busy (by simp [hp]))) (by simp)
  · exact .of_ended (hs.raise (by simp)) (by simp)
  · have hlt : s.moved < framedBits s.len := State.moved_lt_framedBits hle ((endOfStream_eq_false_iff _ _).mp hgo)
    have hroom : s.moved < s.carriers := hlt.trans_le (State.framedBits_le_carriers hadm)
    have hmoved := State.moved_advance hroom
    have hcur' := State.cursorsAgree_advance hcur hroom
    refine ⟨⟨State.pixSound_pixStore _ hs.pix (s.encHeld_iff.mp held).1 hin s.ch.isLt, hs.msg, hs.status,
      State.ch_ne_alpha hcur', (State.phaseSound_encRun ?_).mpr ⟨held, hadm, hcur', hhdr, rfl, ?_⟩,
      hs.capacity⟩, fun _ => hmoved⟩
    · exact hp
    · exact hmoved.trans_le hlt

/-- The bit that a running DEC has come to, and the room before it (R194, R195). -/
theorem Sound.dec_position {s : State} (hs : Sound s) (hp : s.phase = .decHdr ∨ s.phase = .decPay)
    (hgo : ¬ (s.phase = .decPay ∧ s.byteIdx.toNat = s.len + 4)) :
    s.gridHeld = true ∧ s.cursorsAgree = true ∧ s.moved < s.carriers := by
  obtain hp | hp := hp
  · obtain ⟨held, hroom, hcur, hlt⟩ := (State.phaseSound_decHdr hp).mp hs.phase
    exact ⟨held, hcur, hlt.trans_le (s.holdsHeader_iff.mp hroom)⟩
  · obtain ⟨held, -, hroom, hcur, -, hle⟩ := (State.phaseSound_decPay hp).mp hs.phase
    exact ⟨held, hcur, (State.moved_lt_framedBits hle fun he => hgo ⟨hp, he⟩).trans_le ((s.holdsFramed_iff _).mp hroom)⟩

/-- The phase invariant of DEC after a bit that ends no byte of the header. -/
theorem Sound.dec_phase_advance {s : State} (hs : Sound s) (hp : s.phase = .decHdr ∨ s.phase = .decPay)
    (hgo : ¬ (s.phase = .decPay ∧ s.byteIdx.toNat = s.len + 4))
    (hhdr : s.phase = .decHdr → s.moved + 1 < 32) : s.advance.phaseSound = true := by
  obtain ⟨held, hcur, hroom⟩ := hs.dec_position hp hgo
  have hmoved := State.moved_advance hroom
  have hcur' := State.cursorsAgree_advance hcur hroom
  obtain hp | hp := hp
  · obtain ⟨-, hheader, -, -⟩ := (State.phaseSound_decHdr hp).mp hs.phase
    exact (State.phaseSound_decHdr (s := s.advance) hp).mpr ⟨held, hheader, hcur', hmoved.trans_lt (hhdr hp)⟩
  · obtain ⟨-, hlen, hfits, -, hpast, hle⟩ := (State.phaseSound_decPay hp).mp hs.phase
    have hlt := State.moved_lt_framedBits hle fun he => hgo ⟨hp, he⟩
    exact (State.phaseSound_decPay (s := s.advance) hp).mpr
      ⟨held, hlen, hfits, hcur', by omega, hmoved.trans_le hlt⟩

/-- In DEC the invariant does not bind RBYTE and HDR (R43, R44). -/
theorem Sound.setDecBytes {s : State} (hs : Sound s) (hp : s.phase = .decHdr ∨ s.phase = .decPay) (r : Byte)
    (hd : Header) : Sound { s with rbyte := r, hdr := hd } := by
  refine ⟨hs.pix, hs.msg, hs.status, hs.ch, ?_, hs.capacity⟩
  obtain hp | hp := hp
  · exact (State.phaseSound_decHdr (s := { s with rbyte := r, hdr := hd }) hp).mpr
      ((State.phaseSound_decHdr hp).mp hs.phase)
  · exact (State.phaseSound_decPay (s := { s with rbyte := r, hdr := hd }) hp).mpr
      ((State.phaseSound_decPay hp).mp hs.phase)

theorem Sound.msgStore {s : State} (hs : Sound s) {i : Nat} (hi : i < Config.msgbufBytes) (v : Byte) :
    Sound (s.msgStore i v) :=
  ⟨hs.pix, State.msgSound_msgStore v hs.msg hi, hs.status, hs.ch, hs.phase, hs.capacity⟩

/-- The advance of a running DEC after a bit that ends no header (R201). -/
theorem Sound.dec_advance {s : State} (hs : Sound s) (hp : s.phase = .decHdr ∨ s.phase = .decPay)
    (hgo : ¬ (s.phase = .decPay ∧ s.byteIdx.toNat = s.len + 4))
    (hhdr : s.phase = .decHdr → s.moved + 1 < 32) (r : Byte) (hd : Header) :
    Sound { s.advance with rbyte := r, hdr := hd } := by
  obtain ⟨held, hcur, hroom⟩ := hs.dec_position hp hgo
  have hadv : Sound s.advance := ⟨hs.pix, hs.msg, hs.status, State.ch_ne_alpha (State.cursorsAgree_advance hcur hroom),
    hs.dec_phase_advance hp hgo hhdr, hs.capacity⟩
  exact hadv.setDecBytes hp r hd

/-- A completed byte of a running DEC: stored in HDR or in MSG, or the last of the header, which the bound check follows
(R198, R201). -/
theorem byteAssembled_sound {s t : State} {r : Byte} (hs : Sound s) (hp : s.phase = .decHdr ∨ s.phase = .decPay)
    (hgo : ¬ (s.phase = .decPay ∧ s.byteIdx.toNat = s.len + 4)) (hlast : s.bitIdx = 7)
    (h : byteAssembled { s.advance with rbyte := r } s.byteIdx.toNat = .next t) :
    Sound t ∧ (t.status = .busy → t.moved = s.advance.moved) := by
  obtain ⟨held, hcur, hroom⟩ := hs.dec_position hp hgo
  have hmoved := State.moved_advance hroom
  have hcur' := State.cursorsAgree_advance hcur hroom
  have hbyte : s.moved + 1 = 8 * (s.byteIdx.toNat + 1) := by simp [State.moved, hlast]; omega
  obtain ⟨hpay, rfl⟩ | ⟨hhdr, hj, rfl⟩ | ⟨hhdr, hj, u, rfl, ⟨-, rfl⟩ | ⟨hfits, rfl⟩⟩ := byteAssembled_cases h
  · have hnot : s.phase ≠ .decHdr := hpay
    refine ⟨(hs.dec_advance hp hgo (fun he => absurd he hnot) r s.hdr).msgStore ?_ r, fun _ => rfl⟩
    have := s.byteIdx.isLt
    unfold Config.msgbufBytes
    omega
  · obtain ⟨-, -, -, hlt⟩ := (State.phaseSound_decHdr (s := s) hhdr).mp hs.phase
    exact ⟨hs.dec_advance hp hgo (fun _ => by omega) r _, fun _ => rfl⟩
  · exact ⟨.failDecode hs.pix (State.ch_ne_alpha hcur') hs.capacity, by simp⟩
  · have hphase := s.statusSound_iff.mp hs.status
    have hbusy : s.status = .busy := hs.busy (by rw [show s.phase = .decHdr from hhdr]; decide)
    have hm32 : s.advance.moved = 32 := by omega
    refine ⟨⟨hs.pix, hs.msg, (State.statusSound_iff _).mpr ⟨by simp [hbusy], hphase.2⟩, State.ch_ne_alpha hcur',
      (State.phaseSound_decPay rfl).mpr ⟨held, rfl, hfits, hcur', hm32.ge, ?_⟩, hs.capacity⟩, fun _ => rfl⟩
    refine hm32.trans_le ?_
    unfold framedBits
    omega

theorem decMicroStep_soundMove {s t : State} (hs : Sound s) (hp : s.phase = .decHdr ∨ s.phase = .decPay)
    (h : decMicroStep s = .next t) : SoundMove s t := by
  obtain ⟨hpay, -, rfl⟩ | ⟨-, rfl⟩ | ⟨hgo, -, v, r, -, rfl, ⟨hlast, hbyte⟩ | ⟨hbit, rfl⟩⟩ := decMicroStep_cases h
  · exact .of_ended (hs.complete (hs.busy (by simp [hpay]))) (by simp)
  · exact .of_ended (.failDecode hs.pix hs.ch hs.capacity) (by simp)
  · obtain ⟨-, -, hroom⟩ := hs.dec_position hp hgo
    obtain ⟨hsound, hmoved⟩ := byteAssembled_sound hs hp hgo hlast hbyte
    exact ⟨hsound, fun busy => (hmoved busy).trans (State.moved_advance hroom)⟩
  · obtain ⟨-, -, hroom⟩ := hs.dec_position hp hgo
    refine ⟨hs.dec_advance hp hgo (fun hhdr => ?_) _ s.hdr, fun _ => State.moved_advance hroom⟩
    obtain ⟨-, -, -, hlt⟩ := (State.phaseSound_decHdr hhdr).mp hs.phase
    unfold State.moved at hlt ⊢
    bv_omega

/-- A micro-step of a sound state (R178, R201). -/
theorem microStep_soundMove {s t : State} (hs : Sound s) (h : microStep s = .next t) : SoundMove s t := by
  obtain ⟨-, ⟨hp, henc⟩ | ⟨hp, hdec⟩⟩ := microStep_cases h
  · exact encMicroStep_soundMove hs hp henc
  · exact decMicroStep_soundMove hs hp hdec

/-! ### The host's moves -/

/-- The invariant does not speak of the model's own fields. -/
theorem Sound.withHost {s : State} (hs : Sound s) (script : List HostLine) (reply : Option Word) (draws : Nat) :
    Sound (s.withHost script reply draws) :=
  ⟨hs.pix, hs.msg, hs.status, hs.ch, hs.phase, hs.capacity⟩

theorem Sound.take {s : State} (hs : Sound s) (rest : List HostLine) : Sound (s.take rest) :=
  hs.withHost rest none s.draws

theorem Sound.reset : Sound State.reset := (sound_iff _).mp rfl

/-- The reset state is sound, and so is the state that a reset event leaves (R50, R270). -/
theorem Sound.resetBlock (s : State) : Sound s.resetBlock :=
  Sound.reset.withHost s.script none s.draws

/-- Every step from a sound state gives a sound state. -/
theorem step_sound {s t : State} (hs : Sound s) (h : step s = .next t) : Sound t := by
  cases step_cases h with
  | ownFields script reply draws => exact hs.withHost script reply draws
  | engine script reply busy micro => exact (microStep_soundMove (hs.withHost script reply s.draws) micro).sound
  | reset line => exact Sound.resetBlock _
  | wrWidth line free =>
    obtain ⟨phase, status, err⟩ := hs.atRest free
    exact .of_atRest ⟨phase, status, err⟩ (State.pixSound_of_empty rfl) hs.msg hs.ch hs.capacity
  | wrHeight line free =>
    obtain ⟨phase, status, err⟩ := hs.atRest free
    exact .of_atRest ⟨phase, status, err⟩ (State.pixSound_of_empty rfl) hs.msg hs.ch hs.capacity
  | wrMsglen rest v free =>
    obtain ⟨phase, status, err⟩ := hs.atRest free
    exact .of_atRest ⟨phase, status, err⟩ hs.pix hs.msg hs.ch hs.capacity
  | command line free code run => exact exec_sound (hs.take _) run
  | launch line free code run => exact launchOnly_sound (hs.take _) run
  | error script reply draws free he => exact (hs.raise he).withHost script reply draws
  | @pixWrite rest x y c v line free held bounds =>
    obtain ⟨phase, status, err⟩ := hs.atRest free
    have hpix := State.pixSound_pixStore v (hs.take rest).pix held bounds c.isLt
    exact .of_atRest ⟨phase, status, err⟩ hpix hs.msg hs.ch hs.capacity
  | msgWrite rest v free bounds => exact (hs.take rest).msgStore bounds v

/-- Settles O52: by the cases of a step; a host line leaves the block at rest and a micro-step takes the cursors from
one carrier bit of the grid to the next. -/
theorem everyStepKeepsTheBlockSound : Obligations.EveryStepKeepsTheBlockSound := fun s t hs h =>
  (sound_iff t).mpr (step_sound ((sound_iff s).mp hs) h)

/-- Settles O51: at reset nothing is stored and no command is running. -/
theorem resetIsSound : Obligations.ResetIsSound := (sound_iff _).mpr Sound.reset

/-- Settles O50: the micro-step of a sound state counts its bit, and the sound state after it has the cursors of that
bit. -/
theorem microStepMovesOneBit : Obligations.MicroStepMovesOneBit := by
  intro s t hs _ h busy
  obtain ⟨sound, moved⟩ := microStep_soundMove ((sound_iff s).mp hs) h
  exact ⟨moved busy, t.cursorsAgree_iff.mp (sound.cursorsAgree busy)⟩

end Sys2Proof.Machine

/-! SUPPORT. What no command but CAP changes: the dimensions, CAPACITY and the alpha bytes (R28, R29, R175, R204). -/

namespace Sys2Proof.Machine

/-- The engine leaves the dimensions, CAPACITY and every alpha byte of PIX as they were. -/
structure EngineFrame (s t : State) : Prop where
  width : t.width = s.width
  height : t.height = s.height
  capacity : t.capacity = s.capacity
  alpha : ∀ a, a % 4 = 3 → Memory.read t.pix a = Memory.read s.pix a

theorem EngineFrame.trans {s r t : State} (h : EngineFrame s r) (h' : EngineFrame r t) : EngineFrame s t where
  width := h'.width.trans h.width
  height := h'.height.trans h.height
  capacity := h'.capacity.trans h.capacity
  alpha a ha := (h'.alpha a ha).trans (h.alpha a ha)

/-- The frame does not speak of the model's own fields. -/
theorem EngineFrame.of_withHost {s t : State} {script : List HostLine} {reply : Option Word} {draws : Nat}
    (h : EngineFrame (s.withHost script reply draws) t) : EngineFrame s t :=
  ⟨h.width, h.height, h.capacity, h.alpha⟩

/-- The channel of a key is its remainder by 4. -/
theorem pixKey_mod_four {x y c : Nat} (hc : c < 4) : pixKey x y c % 4 = c := by
  unfold pixKey
  omega

/-- A store below alpha leaves the alpha bytes. -/
theorem EngineFrame.pixStore (s : State) (x y : Nat) {c : Nat} (v : Byte) (hc : c < 3) :
    EngineFrame s (s.pixStore x y c v) := by
  refine ⟨rfl, rfl, rfl, fun a ha => Memory.read_write_other _ _ ?_⟩
  have := pixKey_mod_four (x := x) (y := y) (show c < 4 by omega)
  omega

theorem EngineFrame.embed {s t : State} {n : Nat} (h : s.embed n = some t) : EngineFrame s t := by
  induction n generalizing t with
  | zero =>
    cases h
    exact ⟨rfl, rfl, rfl, fun _ _ => rfl⟩
  | succ n ih =>
    simp only [State.embed] at h
    split at h
    · rename_i r hr
      obtain ⟨v, b, -, -, rfl⟩ := State.embedBit_cases h
      exact (ih hr).trans (.pixStore r _ _ _ (carrierPlace_c_lt r.h n))
    · cases h

theorem EngineFrame.extract {s t : State} {n : Nat} (h : s.extract n = some t) : EngineFrame s t := by
  rw [State.extract_frame h]
  exact ⟨rfl, rfl, rfl, fun _ _ => rfl⟩

theorem execEnc_frame {s t : State} (h : execEnc s = .next t) : EngineFrame s t := by
  obtain ⟨-, ⟨-, rfl⟩ | ⟨-, -, r, hr, rfl⟩⟩ := execEnc_cases h
  · exact ⟨rfl, rfl, rfl, fun _ _ => rfl⟩
  · exact (EngineFrame.embed hr).trans ⟨rfl, rfl, rfl, fun _ _ => rfl⟩

theorem execDec_frame {s t : State} (h : execDec s = .next t) : EngineFrame s t := by
  obtain ⟨-, ⟨-, rfl⟩ | ⟨-, -, hd, -, ⟨-, rfl⟩ | ⟨-, -, r, b, hr, -, rfl⟩⟩⟩ := execDec_cases h
  · exact ⟨rfl, rfl, rfl, fun _ _ => rfl⟩
  · exact ⟨rfl, rfl, rfl, fun _ _ => rfl⟩
  · exact (EngineFrame.extract hr).trans ⟨rfl, rfl, rfl, fun _ _ => rfl⟩

/-- CAP changes CAPACITY alone of them. -/
theorem execCap_frame {s t : State} (h : execCap s = .next t) : ∃ c, EngineFrame { s with capacity := c } t := by
  obtain ⟨-, rfl⟩ := execCap_cases h
  exact ⟨_, rfl, rfl, rfl, fun _ _ => rfl⟩

theorem exec_frame {i : Instr} {s t : State} (h : exec i s = .next t) :
    (i = .cap ∧ ∃ c, EngineFrame { s with capacity := c } t) ∨ EngineFrame s t := by
  cases i with
  | cap => exact .inl ⟨rfl, execCap_frame h⟩
  | enc => exact .inr (execEnc_frame h)
  | dec => exact .inr (execDec_frame h)

theorem launchOnly_frame {i : Instr} {s t : State} (h : launchOnly i s = .next t) :
    (i = .cap ∧ ∃ c, EngineFrame { s with capacity := c } t) ∨ EngineFrame s t := by
  cases i with
  | cap => exact .inl ⟨rfl, execCap_frame h⟩
  | enc =>
    obtain ⟨-, -, ⟨-, rfl⟩ | ⟨-, rfl⟩⟩ := launchEnc_cases h
    all_goals exact .inr ⟨rfl, rfl, rfl, fun _ _ => rfl⟩
  | dec =>
    obtain ⟨-, -, ⟨-, rfl⟩ | ⟨-, rfl⟩⟩ := launchDec_cases h
    all_goals exact .inr ⟨rfl, rfl, rfl, fun _ _ => rfl⟩

theorem encMicroStep_frame {s t : State} (hc : s.ch ≠ 3) (h : encMicroStep s = .next t) : EngineFrame s t := by
  obtain ⟨-, rfl⟩ | ⟨-, -, rfl⟩ | ⟨-, -, byte, v, r, -, -, rfl, rfl⟩ := encMicroStep_cases h
  · exact ⟨rfl, rfl, rfl, fun _ _ => rfl⟩
  · exact ⟨rfl, rfl, rfl, fun _ _ => rfl⟩
  · have hlt : s.ch.toNat < 3 := by bv_omega
    exact (EngineFrame.pixStore s _ _ _ hlt).trans ⟨rfl, rfl, rfl, fun _ _ => rfl⟩

theorem byteAssembled_frame {s t : State} {j : Nat} (h : byteAssembled s j = .next t) : EngineFrame s t := by
  obtain ⟨-, rfl⟩ | ⟨-, -, rfl⟩ | ⟨-, -, u, rfl, ⟨-, rfl⟩ | ⟨-, rfl⟩⟩ := byteAssembled_cases h
  all_goals exact ⟨rfl, rfl, rfl, fun _ _ => rfl⟩

theorem decMicroStep_frame {s t : State} (h : decMicroStep s = .next t) : EngineFrame s t := by
  obtain ⟨-, -, rfl⟩ | ⟨-, rfl⟩ | ⟨-, -, v, r, -, rfl, ⟨-, hbyte⟩ | ⟨-, rfl⟩⟩ := decMicroStep_cases h
  · exact ⟨rfl, rfl, rfl, fun _ _ => rfl⟩
  · exact ⟨rfl, rfl, rfl, fun _ _ => rfl⟩
  · obtain ⟨width, height, capacity, alpha⟩ := byteAssembled_frame hbyte
    exact ⟨width, height, capacity, alpha⟩
  · exact ⟨rfl, rfl, rfl, fun _ _ => rfl⟩

theorem microStep_frame {s t : State} (h : microStep s = .next t) : EngineFrame s t := by
  obtain ⟨hc, ⟨-, henc⟩ | ⟨-, hdec⟩⟩ := microStep_cases h
  · exact encMicroStep_frame hc henc
  · exact decMicroStep_frame hdec

/-- Where a step changes the dimensions, CAPACITY or an alpha byte, and what it then leaves of them. -/
theorem step_frame {s t : State} (h : step s = .next t) :
    EngineFrame s t ∨
    (∃ rest v c, decode (commandByte v) = .ok .cap ∧ (s.script = .wr 0 v :: rest ∨ s.script = .launch v :: rest) ∧
      EngineFrame { s with capacity := c } t) ∨
    (∃ rest, s.script = .reset :: rest) ∨
    (∃ rest v, s.script = .wr 3 v :: rest ∧ t.height = s.height ∧ t.capacity = s.capacity) ∨
    (∃ rest v, s.script = .wr 4 v :: rest ∧ t.width = s.width ∧ t.capacity = s.capacity) ∨
    (∃ rest x y c v, s.script = .pixw x y c v :: rest ∧ t = (s.take rest).pixStore x.toNat y.toNat c.toNat v) := by
  cases step_cases h with
  | ownFields script reply draws => exact .inl ⟨rfl, rfl, rfl, fun _ _ => rfl⟩
  | engine script reply busy micro => exact .inl (microStep_frame micro).of_withHost
  | reset line => exact .inr (.inr (.inl ⟨_, line⟩))
  | wrWidth line free => exact .inr (.inr (.inr (.inl ⟨_, _, line, rfl, rfl⟩)))
  | wrHeight line free => exact .inr (.inr (.inr (.inr (.inl ⟨_, _, line, rfl, rfl⟩))))
  | wrMsglen rest v free => exact .inl ⟨rfl, rfl, rfl, fun _ _ => rfl⟩
  | command line free code run =>
    obtain ⟨rfl, c, hframe⟩ | hframe := exec_frame run
    · exact .inr (.inl ⟨_, _, c, code, .inl line, .of_withHost (s := { s with capacity := c }) hframe⟩)
    · exact .inl (.of_withHost (s := s) hframe)
  | launch line free code run =>
    obtain ⟨rfl, c, hframe⟩ | hframe := launchOnly_frame run
    · exact .inr (.inl ⟨_, _, c, code, .inr line, .of_withHost (s := { s with capacity := c }) hframe⟩)
    · exact .inl (.of_withHost (s := s) hframe)
  | error script reply draws free he => exact .inl ⟨rfl, rfl, rfl, fun _ _ => rfl⟩
  | pixWrite line free held bounds => exact .inr (.inr (.inr (.inr (.inr ⟨_, _, _, _, _, line, rfl⟩))))
  | msgWrite rest v free bounds => exact .inl ⟨rfl, rfl, rfl, fun _ _ => rfl⟩

/-- Settles O47: by the lines at which a step changes a dimension. -/
theorem onlyTheHostChangesTheDimensions : Obligations.OnlyTheHostChangesTheDimensions := by
  intro s t h
  obtain hf | ⟨rest, v, c, -, -, hf⟩ | ⟨rest, line⟩ | ⟨rest, v, line, hkept, -⟩ | ⟨rest, v, line, hkept, -⟩ |
    ⟨rest, x, y, c, v, line, rfl⟩ := step_frame h
  · exact ⟨fun hne => absurd hf.width hne, fun hne => absurd hf.height hne⟩
  · exact ⟨fun hne => absurd hf.width hne, fun hne => absurd hf.height hne⟩
  · exact ⟨fun _ => ⟨rest, .inr line⟩, fun _ => ⟨rest, .inr line⟩⟩
  · exact ⟨fun _ => ⟨rest, .inl ⟨v, line⟩⟩, fun hne => absurd hkept hne⟩
  · exact ⟨fun hne => absurd hkept hne, fun _ => ⟨rest, .inl ⟨v, line⟩⟩⟩
  · exact ⟨fun hne => absurd rfl hne, fun hne => absurd rfl hne⟩

/-- Settles O48: by the lines at which a step changes CAPACITY. -/
theorem onlyCapWritesCapacity : Obligations.OnlyCapWritesCapacity := by
  intro s t h hne
  obtain hf | ⟨rest, v, c, code, line, -⟩ | ⟨rest, line⟩ | ⟨rest, v, -, -, hkept⟩ | ⟨rest, v, -, -, hkept⟩ |
    ⟨rest, x, y, c, v, -, rfl⟩ := step_frame h
  · exact absurd hf.capacity hne
  · exact ⟨rest, .inr ⟨v, code, line⟩⟩
  · exact ⟨rest, .inl line⟩
  · exact absurd hkept hne
  · exact absurd hkept hne
  · exact absurd rfl hne

/-- A host store changes an alpha byte only where it is a store to that byte (R64). -/
theorem State.pixStore_alpha {s : State} {x y x' y' : Half} {c : Chan} {v : Byte}
    (hne : Memory.read (s.pixStore x'.toNat y'.toNat c.toNat v).pix (pixKey x.toNat y.toNat 3) ≠
      Memory.read s.pix (pixKey x.toNat y.toNat 3)) : x' = x ∧ y' = y ∧ c = 3 := by
  have hkey : pixKey x'.toNat y'.toNat c.toNat = pixKey x.toNat y.toNat 3 := by
    by_contra hother
    exact hne (Memory.read_write_other _ _ (Ne.symm hother))
  obtain ⟨hx, hy, hc⟩ := pixKey_inj y'.isLt y.isLt c.isLt (by omega) hkey
  exact ⟨BitVec.eq_of_toNat_eq hx, BitVec.eq_of_toNat_eq hy, BitVec.eq_of_toNat_eq hc⟩

/-- Settles O49: by the lines at which a step changes an alpha byte. -/
theorem onlyTheHostChangesAlpha : Obligations.OnlyTheHostChangesAlpha := by
  intro s t x y h hne
  have hkey : pixKey x.toNat y.toNat 3 % 4 = 3 := pixKey_mod_four (by omega)
  obtain hf | ⟨rest, v, c, -, -, hf⟩ | ⟨rest, line⟩ | ⟨rest, v, line, -⟩ | ⟨rest, v, line, -⟩ |
    ⟨rest, x', y', c, v, line, rfl⟩ := step_frame h
  · exact absurd (hf.alpha _ hkey) hne
  · exact absurd (hf.alpha _ hkey) hne
  · exact ⟨rest, .inr (.inr (.inr line))⟩
  · exact ⟨rest, .inr (.inl ⟨v, line⟩)⟩
  · exact ⟨rest, .inr (.inr (.inl ⟨v, line⟩))⟩
  · obtain ⟨rfl, rfl, rfl⟩ := State.pixStore_alpha hne
    exact ⟨rest, .inl ⟨v, line⟩⟩

end Sys2Proof.Machine

/-! SUPPORT. The host's turn, one equation per move, and the statements about single host moves and reset. -/

namespace Sys2Proof.Machine

/-- On the host's turn the step is the host's move (R227). -/
theorem step_of_hostTurn {s : State} {l : HostLine} {rest : List HostLine} (h : s.hostTurn l rest) :
    step s = hostMove (s.take rest) l := by
  obtain ⟨line, free⟩ := h
  simp [step, turn, line, free]

/-! ### Register reads and writes by number (R21) -/

theorem step_rd {s : State} {rest : List HostLine} {n : Byte} (h : s.hostTurn (.rd n) rest) :
    step s = .next (readRegister (s.take rest) n) :=
  step_of_hostTurn h

theorem step_wr {s : State} {rest : List HostLine} {n : Byte} {v : Word} (h : s.hostTurn (.wr n v) rest) :
    step s = writeRegister (s.take rest) n v :=
  step_of_hostTurn h

theorem State.answerReg_of_held {w : Nat} (s : State) {r : Reg w} (h : r.held = true) :
    s.answerReg r = s.answer (r.val.setWidth 32) := by
  simp [State.answerReg, h]

theorem State.answerReg_word_of_held (s : State) {r : Reg 32} (h : r.held = true) :
    s.answerReg r = s.answer r.val := by
  rw [s.answerReg_of_held h, BitVec.setWidth_eq]

/-- A read of a register without a value draws a free value of the register's width (R34). -/
theorem State.answerReg_of_not_held {w : Nat} (s : State) {r : Reg w} (h : r.held = false) :
    s.answerReg r =
      { s.answer (((Config.freeWord s.draws).setWidth w).setWidth 32) with draws := s.draws + 1 } := by
  simp [State.answerReg, h]

/-- CMD and the numbers that are no register's read 0 (R22). -/
theorem readRegister_of_no_content (s : State) {n : Byte} (h : n = 0 ∨ 7 ≤ n.toNat) :
    readRegister s n = s.answer 0 := by
  obtain rfl | h := h
  · rfl
  · simp [readRegister, registerOf_eq_none h]

/-- STATUS, ERR, CAPACITY and the numbers that are no register's ignore a write. -/
theorem writeRegister_ignored (s : State) {n : Byte} (v : Word) (h : n = 1 ∨ n = 2 ∨ n = 6 ∨ 7 ≤ n.toNat) :
    writeRegister s n v = .next s := by
  obtain rfl | rfl | rfl | h := h
  · rfl
  · rfl
  · rfl
  · simp [writeRegister, registerOf_eq_none h]

/-- What a read of STATUS gives while no command is running (R23). -/
theorem statusCode_cases {st : Status} (free : st ≠ .busy) :
    st = .idle ∧ (statusCode st).setWidth 32 = (0 : Word) ∨ st = .done ∧ (statusCode st).setWidth 32 = (2 : Word) ∨
      st = .fail ∧ (statusCode st).setWidth 32 = (3 : Word) := by
  cases st with
  | busy => exact absurd rfl free
  | _ => decide

/-- What a read of ERR gives (R24). -/
theorem errCode_cases (e : ErrCode) :
    e = .none ∧ (errCode e).setWidth 32 = (0 : Word) ∨ e = .capacityExceeded ∧ (errCode e).setWidth 32 = (1 : Word) ∨
      e = .malformedCarrier ∧ (errCode e).setWidth 32 = (2 : Word) ∨
      e = .gridBounds ∧ (errCode e).setWidth 32 = (3 : Word) ∨
      e = .illegalCommand ∧ (errCode e).setWidth 32 = (4 : Word) := by
  cases e <;> decide

/-- Settles O38: each access by the register its number names. -/
theorem registerAccessByNumber : Obligations.RegisterAccessByNumber := by
  intro s rest n v
  refine ⟨fun h => ⟨?_, ?_, ?_, ?_, ?_, ?_, ?_⟩, fun h => ⟨?_, ?_⟩, fun h => ?_, fun h => step_of_hostTurn h⟩
  · intro hn
    rw [step_rd h, readRegister_of_no_content _ hn]
    rfl
  · rintro rfl
    exact ⟨_, step_rd h, statusCode_cases h.2⟩
  · rintro rfl
    exact ⟨_, step_rd h, errCode_cases s.err⟩
  · rintro rfl held
    exact (step_rd h).trans (congrArg _ ((s.take rest).answerReg_of_held held))
  · rintro rfl held
    exact (step_rd h).trans (congrArg _ ((s.take rest).answerReg_of_held held))
  · rintro rfl held
    exact (step_rd h).trans (congrArg _ ((s.take rest).answerReg_word_of_held held))
  · rintro rfl held
    exact (step_rd h).trans (congrArg _ ((s.take rest).answerReg_word_of_held held))
  · intro hn
    exact (step_wr h).trans (writeRegister_ignored _ v hn)
  · rintro rfl
    exact step_wr h
  · exact ⟨_, step_of_hostTurn h, statusCode_cases h.2⟩

/-- Settles O39: the value is the run's next free one, cut to the register's width. -/
theorem unwrittenRegisterReadsSomeValue : Obligations.UnwrittenRegisterReadsSomeValue := by
  intro s rest n h
  refine ⟨?_, ?_⟩
  all_goals
    rintro (⟨rfl, unheld⟩ | ⟨rfl, unheld⟩)
    all_goals exact ⟨_, (step_rd h).trans (congrArg _ ((s.take rest).answerReg_of_not_held unheld))⟩

/-- A grid without a listed byte has no byte that holds a value (R30). -/
theorem State.pixByte_of_empty {s : State} (h : s.pix = []) (x y c : Nat) : s.pixByte x y c = none := by
  simp [State.pixByte, h]

/-- A dimension register stores the low 16 bits (R25, R26). -/
theorem extractLsb'_eq_ofNat (v : Word) : v.extractLsb' 0 16 = BitVec.ofNat 16 (v.toNat % 65536) := by
  apply BitVec.eq_of_toNat_eq
  simp

/-- Settles O40: both writes store the low half and empty PIX. -/
theorem dimensionWriteDiscardsThePixels : Obligations.DimensionWriteDiscardsThePixels := by
  intro s rest v
  rw [← extractLsb'_eq_ofNat v]
  exact ⟨fun h => ⟨_, step_wr h, rfl, State.pixByte_of_empty rfl⟩,
    fun h => ⟨_, step_wr h, rfl, State.pixByte_of_empty rfl⟩⟩

/-! ### The launch and the reset -/

/-- Settles O4: a write of CMD is the decoded command (R220). -/
theorem stepRunsTheDecodedCommand : Obligations.StepRunsTheDecodedCommand := by
  intro s rest v i h code
  refine ⟨by cases i <;> rfl, (step_wr h).trans ?_⟩
  exact writeCommand_ok code

/-- Settles O46: a turn of either kind obeys a reset (R270). -/
theorem resetAtAnyTime : Obligations.ResetAtAnyTime := by
  intro s rest line
  unfold step turn
  rw [line]
  by_cases busy : s.status = .busy
  · exact if_pos busy
  · exact if_neg busy

/-- Settles O45: the fields of the reset state, and that with no line and no command a step does nothing. -/
theorem resetState : Obligations.ResetState :=
  ⟨rfl, rfl, rfl, rfl, rfl, rfl, rfl, rfl, rfl, rfl, rfl, rfl, rfl, Memory.read_nil, Memory.read_nil, rfl⟩

end Sys2Proof.Machine

/-! SUPPORT. When the commands complete, fail and are refused, by what their operands hold (R132, R171, R194, R195,
R228, R231). -/

namespace Sys2Proof.Machine

/-! ### Bytes assembled from carrier bits hold values when the channel bytes do (R192, R193) -/

theorem State.assemble_ne_none {s : State} {j n : Nat} (h : ∀ k < 8 * j + n, s.carrier k ≠ none) :
    s.assemble j n ≠ none := by
  induction n with
  | zero => simp [State.assemble]
  | succ n ih =>
    obtain ⟨r, hr⟩ := Option.ne_none_iff_exists'.mp (ih fun k hk => h k (by omega))
    obtain ⟨v, hv⟩ := Option.ne_none_iff_exists'.mp (h (8 * j + n) (by omega))
    simp [State.assemble, State.carrierBit, hr, hv]

theorem State.carrierByte_ne_none {s : State} {n j : Nat} (h : ∀ k < n, s.carrier k ≠ none) (hj : 8 * j + 8 ≤ n) :
    s.carrierByte j ≠ none :=
  State.assemble_ne_none fun k hk => h k (by omega)

theorem State.carrierHeader_ne_none {s : State} (h : ∀ k < pixelBytes 32, s.carrier k ≠ none) :
    s.carrierHeader ≠ none := by
  have hbyte (j : Nat) (hj : j < 4) : ∃ v, s.carrierByte j = some v :=
    Option.ne_none_iff_exists'.mp (State.carrierByte_ne_none h ((by omega : 8 * j + 8 ≤ 32).trans (le_pixelBytes 32)))
  obtain ⟨b0, h0⟩ := hbyte 0 (by omega)
  obtain ⟨b1, h1⟩ := hbyte 1 (by omega)
  obtain ⟨b2, h2⟩ := hbyte 2 (by omega)
  obtain ⟨b3, h3⟩ := hbyte 3 (by omega)
  simp [State.carrierHeader, h0, h1, h2, h3]

/-! ### CAP -/

theorem execCap_of_held {s : State} (held : s.gridHeld = true) :
    execCap s = .next { s.begin.complete with
      capacity := { val := BitVec.ofNat 32 (maxEncodeSize s.w s.h), held := true } } :=
  if_pos held

theorem execCap_of_not_held {s : State} (unheld : s.gridHeld = false) : execCap s = .refused .unwrittenRegister := by
  simp [execCap, unheld]

/-- Settles O11: the capacity of 16-bit dimensions fits 32 bits. -/
theorem capCompletes : Obligations.CapCompletes := fun s =>
  ⟨fun held => ⟨execCap_of_held held, (BitVec.toNat_ofNat _ _).trans (Nat.mod_eq_of_lt s.maxEncodeSize_lt)⟩,
    execCap_of_not_held⟩

/-! ### ENC -/

theorem execEnc_of_not_held {s : State} (unheld : s.encHeld = false) : execEnc s = .refused .unwrittenRegister := by
  simp [execEnc, unheld]

theorem execEnc_of_not_admitted {s : State} (held : s.encHeld = true) (hadm : s.admits = false) :
    execEnc s = .next (s.begin.raise .capacityExceeded) := by
  simp [execEnc, held, hadm, msgbuf_len]

/-- The framed bits of a message byte without a value hold none (R172). -/
theorem State.framedBit_of_msgByte_none {s : State} {j : Nat} (h : s.msgByte j = none) :
    s.framedBit (8 * (4 + j)) = none := by
  simp [State.framedBit, State.framedByte, h]

/-- An ENC that embeds all its bits had a value in every operand byte of MSG. -/
theorem State.msgByte_ne_none_of_embed {s t : State} (h : s.embed (framedBits s.len) = some t) {j : Nat}
    (hj : j < s.len) : s.msgByte j ≠ none := by
  intro hnone
  obtain ⟨hbits, -, -⟩ := (s.embed_spec _).2 t h
  obtain ⟨v, b, -, hb, -⟩ := hbits (8 * (4 + j)) (by unfold framedBits; omega)
  rw [State.framedBit_of_msgByte_none hnone] at hb
  cases hb

/-- An admitted ENC with an operand byte that holds no value is refused (R228). -/
theorem execEnc_of_not_readable {s : State} (held : s.encHeld = true) (hadm : s.admits = true)
    (hread : ¬ s.encReadable) : execEnc s = .refused .unwrittenByte := by
  by_cases hpix : s.carriersHeld (pixelBytes (framedBits s.len)) = true
  · have hembed : s.embed (framedBits s.len) = none := by
      by_contra hsome
      obtain ⟨t, ht⟩ := Option.ne_none_iff_exists'.mp hsome
      exact hread ⟨(s.carriersHeld_iff _).mp hpix, fun j hj => State.msgByte_ne_none_of_embed ht hj⟩
    simp [execEnc, held, hadm, msgbuf_len, hpix, hembed]
  · simp [execEnc, held, hadm, msgbuf_len, hpix]

theorem State.not_encReadable_iff (s : State) : ¬ s.encReadable ↔
    (∃ k < pixelBytes (framedBits s.len), s.carrier k = none) ∨ ∃ j < s.len, s.msgByte j = none := by
  simp only [State.encReadable, not_and_or, not_forall, not_not, exists_prop]

/-- When a launch of ENC is refused: R228 with the registers of R231, and the bytes that an admitted ENC takes. -/
theorem execEnc_refused_iff (s : State) (r : Refusal) : execEnc s = .refused r ↔
    (r = .unwrittenRegister ∧ s.encHeld = false) ∨
      (r = .unwrittenByte ∧ s.encHeld = true ∧ s.admits = true ∧ ¬ s.encReadable) := by
  cases held : s.encHeld with
  | false => simp [execEnc_of_not_held held, eq_comm (a := r)]
  | true =>
    cases hadm : s.admits with
    | false => simp [execEnc_of_not_admitted held hadm]
    | true =>
      by_cases hread : s.encReadable
      · obtain ⟨t, -, ht⟩ := execEnc_next held hadm hread
        simp [ht, hread]
      · simp [execEnc_of_not_readable held hadm hread, hread, eq_comm (a := r)]

/-! ### DEC -/

theorem execDec_of_not_held {s : State} (unheld : s.gridHeld = false) : execDec s = .refused .unwrittenRegister := by
  simp [execDec, unheld]

theorem execDec_of_no_header {s : State} (held : s.gridHeld = true) (hroom : s.holdsHeader = false) :
    execDec s = .next s.begin.failDecode := by
  simp [execDec, held, hroom]

theorem execDec_of_header_unwritten {s : State} (held : s.gridHeld = true) (hroom : s.holdsHeader = true)
    (hpix : s.carriersHeld (pixelBytes 32) = false) : execDec s = .refused .unwrittenByte := by
  simp [execDec, held, hroom, hpix]

section

variable {s : State} {hd : Header} (held : s.gridHeld = true) (hroom : s.holdsHeader = true)
  (hhd : s.carrierHeader = some hd)

include held hroom hhd

theorem execDec_of_too_long (hpix : s.carriersHeld (pixelBytes 32) = true)
    (hfits : s.holdsFramed (combineToInt hd).toNat = false) :
    execDec s = .next (s.begin.decodedTo hd 0 hd.b3).failDecode := by
  simp [execDec, held, hroom, hpix, hhd, hfits, msgbuf_ok]

theorem execDec_of_message_unwritten (hpix : s.carriersHeld (pixelBytes 32) = true)
    (hfits : s.holdsFramed (combineToInt hd).toNat = true)
    (hmsg : s.carriersHeld (pixelBytes (framedBits (combineToInt hd).toNat)) = false) :
    execDec s = .refused .unwrittenByte := by
  simp [execDec, held, hroom, hpix, hhd, hfits, hmsg, msgbuf_ok]

/-- A DEC whose framed message fits, its pixels holding values, extracts it and completes (R200). -/
theorem execDec_of_written (hfits : s.holdsFramed (combineToInt hd).toNat = true)
    (hmsg : ∀ k < pixelBytes (framedBits (combineToInt hd).toNat), s.carrier k ≠ none) :
    ∃ r b, s.extract (combineToInt hd).toNat = some r ∧ execDec s = .next (r.decoded hd b) := by
  have hbyte (j : Nat) (hj : j < 4 + (combineToInt hd).toNat) : s.carrierByte j ≠ none := by
    refine State.carrierByte_ne_none hmsg (Nat.le_trans ?_ (le_pixelBytes _))
    unfold framedBits
    omega
  obtain ⟨r, hr⟩ := Option.ne_none_iff_exists'.mp ((s.extract_spec (combineToInt hd).toNat).1
    fun j hj => hbyte (4 + j) (by omega))
  obtain ⟨b, hb⟩ := Option.ne_none_iff_exists'.mp (hbyte (3 + (combineToInt hd).toNat) (by omega))
  exact ⟨r, b, hr, execDec_next held hroom hhd hfits ((s.carriersHeld_iff _).mpr hmsg) hr hb⟩

end

/-- Settles O27: the bytes extracted are the carrier bytes from 4 on, and extraction changes MSG alone. -/
theorem decCompletes : Obligations.DecCompletes := by
  intro s hd held hroom hhd hfits hmsg
  obtain ⟨r, b, hr, hrun⟩ := execDec_of_written held hroom hhd hfits hmsg
  obtain ⟨hbytes, hbeyond⟩ := (s.extract_spec _).2 r hr
  have hframe := execDec_frame hrun
  have hpix : r.pix = s.pix := by rw [State.extract_frame hr]
  exact ⟨r.decoded hd b, hrun, rfl, rfl, rfl, hbytes, hbeyond, hpix, hframe.width, hframe.height, hframe.capacity⟩

theorem State.holdsHeader_eq_false_iff (s : State) : s.holdsHeader = false ↔ s.carriers < 32 := by
  simp [State.holdsHeader]

theorem State.holdsFramed_eq_false_iff (s : State) (n : Nat) : s.holdsFramed n = false ↔ s.carriers < framedBits n := by
  simp [State.holdsFramed]

/-- Settles O28: DEC fails at the header check or at the bound check, and completes after both. -/
theorem decFailsExactlyWhenMalformed : Obligations.DecFailsExactlyWhenMalformed := by
  refine ⟨fun s held hsmall => ?_, fun s hd held hroom hpix hhd hlong => ?_, fun s t h hnot => ?_⟩
  · exact ⟨_, execDec_of_no_header held (s.holdsHeader_eq_false_iff.mpr hsmall), rfl⟩
  · exact ⟨_, execDec_of_too_long held (s.holdsHeader_iff.mpr hroom) hhd ((s.carriersHeld_iff _).mpr hpix)
      ((s.holdsFramed_eq_false_iff _).mpr hlong), rfl⟩
  · obtain ⟨-, ⟨hsmall, rfl⟩ | ⟨-, -, hd, hhd, ⟨hlong, rfl⟩ | ⟨-, -, r, b, -, -, rfl⟩⟩⟩ := execDec_cases h
    · exact ⟨.inl (s.holdsHeader_eq_false_iff.mp hsmall), rfl, rfl, rfl, rfl, Memory.read_nil⟩
    · exact ⟨.inr ⟨hd, hhd, (s.holdsFramed_eq_false_iff _).mp hlong⟩, rfl, rfl, rfl, rfl, Memory.read_nil⟩
    · exact absurd rfl hnot

theorem State.carriersHeld_eq_false_iff (s : State) (n : Nat) :
    s.carriersHeld n = false ↔ ∃ k < n, s.carrier k = none := by
  rw [← Bool.not_eq_true, State.carriersHeld_iff]
  simp only [not_forall, not_not, exists_prop]

/-- The operand bytes of DEC in PIX that hold no value: of the header, or of the message where it fits (R94, R231). -/
def State.decUnwritten (s : State) : Prop :=
  s.carriersHeld (pixelBytes 32) = false ∨
    ∃ hd, s.carrierHeader = some hd ∧ s.holdsFramed (combineToInt hd).toNat = true ∧
      s.carriersHeld (pixelBytes (framedBits (combineToInt hd).toNat)) = false

/-- A DEC with room for a header is refused for an operand byte without a value, and for nothing else (R228). -/
theorem execDec_refused_iff_of_room {s : State} (held : s.gridHeld = true) (hroom : s.holdsHeader = true) (r : Refusal) :
    execDec s = .refused r ↔ r = .unwrittenByte ∧ s.decUnwritten := by
  cases hpix : s.carriersHeld (pixelBytes 32) with
  | false => simp [execDec_of_header_unwritten held hroom hpix, State.decUnwritten, hpix, eq_comm (a := r)]
  | true =>
    obtain ⟨hd, hhd⟩ := Option.ne_none_iff_exists'.mp (State.carrierHeader_ne_none ((s.carriersHeld_iff _).mp hpix))
    cases hfits : s.holdsFramed (combineToInt hd).toNat with
    | false => simp [execDec_of_too_long held hroom hhd hpix hfits, State.decUnwritten, hpix, hhd, hfits]
    | true =>
      cases hmsg : s.carriersHeld (pixelBytes (framedBits (combineToInt hd).toNat)) with
      | false =>
        simp [execDec_of_message_unwritten held hroom hhd hpix hfits hmsg, State.decUnwritten, hpix, hhd, hfits, hmsg,
          eq_comm (a := r)]
      | true =>
        obtain ⟨t, b, -, hrun⟩ := execDec_of_written held hroom hhd hfits ((s.carriersHeld_iff _).mp hmsg)
        simp [hrun, State.decUnwritten, hpix, hhd, hmsg]

theorem execDec_refused_iff (s : State) (r : Refusal) : execDec s = .refused r ↔
    (r = .unwrittenRegister ∧ s.gridHeld = false) ∨
      (r = .unwrittenByte ∧ s.gridHeld = true ∧ s.holdsHeader = true ∧ s.decUnwritten) := by
  cases held : s.gridHeld with
  | false => simp [execDec_of_not_held held, eq_comm (a := r)]
  | true =>
    cases hroom : s.holdsHeader with
    | false => simp [execDec_of_no_header held hroom]
    | true => simp [execDec_refused_iff_of_room held hroom]

theorem execCap_refused_iff (s : State) (r : Refusal) : execCap s = .refused r ↔
    r = .unwrittenRegister ∧ s.gridHeld = false := by
  cases held : s.gridHeld with
  | false => simp [execCap_of_not_held held, eq_comm (a := r)]
  | true => simp [execCap_of_held held]

/-- Settles O33: the refusals of each command, by its checks in their order. -/
theorem launchWithoutOperandsIsRefused : Obligations.LaunchWithoutOperandsIsRefused := by
  refine ⟨execCap_refused_iff, fun s r => ?_, fun s r => ?_⟩
  · rw [← s.not_encReadable_iff]
    exact execEnc_refused_iff s r
  · simp only [← State.carriersHeld_eq_false_iff]
    exact execDec_refused_iff s r

end Sys2Proof.Machine

/-! SUPPORT. An ENC run on its own result: a bit written where it stands already changes nothing (R78, R177). -/

namespace Sys2Proof.Machine

/-- The second write of a bit finds it in place (R113). -/
theorem setLSB_setLSB (v : Byte) (b : Bit) : setLSB (setLSB v b) b = setLSB v b := by
  have hbit : (if b then 1 else 0 : Byte) &&& 0xFE#8 = 0 := by cases b <;> decide
  simp only [setLSB, BitVec.and_or_distrib_right, hbit]
  simp [BitVec.and_assoc]

/-- The first n carrier bits carry the framed message: each is in the byte it goes into (R177). -/
def State.Carries (s : State) (n : Nat) : Prop :=
  ∀ k < n, ∃ v b, s.carrier k = some v ∧ s.framedBit k = some b ∧ setLSB v b = v

theorem State.embedBit_of_inPlace {s : State} {k : Nat} {v : Byte} {b : Bit} (hw : Memory.wf s.pix = true)
    (hv : s.carrier k = some v) (hb : s.framedBit k = some b) (hvb : setLSB v b = v) : s.embedBit k = some s := by
  have hpix : Memory.write s.pix (s.carrierKey k) v = s.pix :=
    Memory.write_same _ _ _ hw (State.carrier_inGrid hv).2
  simp only [State.embedBit, hv, hb, hvb]
  exact congrArg (fun pix => some { s with pix := pix }) hpix

/-- The loop of ENC changes nothing where the message is in place. -/
theorem State.Carries.embed_eq {s : State} {n : Nat} (h : s.Carries n) (hw : Memory.wf s.pix = true) :
    s.embed n = some s := by
  induction n with
  | zero => rfl
  | succ n ih =>
    obtain ⟨v, b, hv, hb, hvb⟩ := h n (Nat.lt_succ_self n)
    simp only [State.embed, ih fun k hk => h k (Nat.lt_succ_of_lt hk)]
    exact State.embedBit_of_inPlace hw hv hb hvb

/-- After the loop of ENC the message is in place (R176). -/
theorem State.carries_of_embed {s r : State} {n : Nat} (h : s.embed n = some r) : r.Carries n := by
  have hf := State.embed_frame h
  intro k hk
  obtain ⟨v, b, -, hb, hcar⟩ := ((s.embed_spec n).2 r h).1 k hk
  refine ⟨_, b, hcar, ?_, setLSB_setLSB v b⟩
  rw [← hb]
  exact State.framedBit_congr (by rw [hf]) (by rw [hf]) k

/-- The operands of an ENC that is done hold values after it too (R231). -/
theorem State.encReadable_of_embed {s r : State} (h : s.embed (framedBits s.len) = some r) (hs : s.encReadable) :
    r.encReadable := by
  have hf := State.embed_frame h
  have hlen : r.len = s.len := by rw [hf]; rfl
  obtain ⟨hbits, hrest, -⟩ := (s.embed_spec _).2 r h
  obtain ⟨hpix, hmsg⟩ := hs
  refine ⟨fun k hk => ?_, fun j hj => ?_⟩
  · by_cases hkn : k < framedBits s.len
    · obtain ⟨v, b, -, -, hcar⟩ := hbits k hkn
      simp [hcar]
    · rw [hrest k (Nat.le_of_not_lt hkn)]
      exact hpix k (hlen ▸ hk)
  · have : r.msg = s.msg := by rw [hf]
    simpa [State.msgByte, this] using hmsg j (hlen ▸ hj)

/-- Completion changes neither the carrier bytes nor the framed message (R222). -/
theorem State.carries_encoded {s : State} {n : Nat} : s.encoded.Carries n ↔ s.Carries n := Iff.rfl

theorem State.encReadable_encoded {s : State} : s.encoded.encReadable ↔ s.encReadable := Iff.rfl

/-- Completion does not depend on the earlier STATUS, ERR, cursors, HDR or EOS (R220, R222). -/
theorem State.encoded_encoded (s : State) : s.encoded.encoded = s.encoded := rfl

/-- Settles O23: the second ENC finds every bit in place, and completes to the same registers. -/
theorem encTwiceIsEncOnce : Obligations.EncTwiceIsEncOnce := by
  intro s t hw h hdone
  obtain ⟨held, ⟨-, rfl⟩ | ⟨hadm, hpix, r, hr, rfl⟩⟩ := execEnc_cases h
  · cases hdone
  · have hread : s.encReadable :=
      ⟨(s.carriersHeld_iff _).mp hpix, fun j hj => State.msgByte_ne_none_of_embed hr hj⟩
    have hf := State.embed_frame hr
    have hN : framedBits r.encoded.len = framedBits s.len := by rw [hf]; rfl
    have hcarries : r.encoded.Carries (framedBits s.len) := State.carries_encoded.mpr (State.carries_of_embed hr)
    have hwf : Memory.wf r.pix = true := State.embed_wf hw hr
    obtain ⟨u, hu, hnext⟩ := execEnc_next (s := r.encoded) (by rw [hf]; exact held) (by rw [hf]; exact hadm)
      (State.encReadable_encoded.mpr (State.encReadable_of_embed hr hread))
    rw [hN, hcarries.embed_eq hwf] at hu
    cases hu
    exact hnext.trans (congrArg _ r.encoded_encoded)

end Sys2Proof.Machine

/-! SUPPORT. The host's accesses to PIX and MSG, one equation per case of each move (R61 to R67, R243). -/

namespace Sys2Proof.Machine

theorem State.inGrid_eq_false_iff (s : State) (x y : Nat) : s.inGrid x y = false ↔ s.w ≤ x ∨ s.h ≤ y := by
  rw [← Bool.not_eq_true, s.inGrid_iff, not_and_or, Nat.not_lt, Nat.not_lt]

/-- A read of a byte that holds a value answers it, and does nothing else (R63, R66). -/
theorem State.take_answerByte_of_value (s : State) (rest : List HostLine) {o : Option Byte} {v : Byte}
    (h : o = some v) : (s.take rest).answerByte o = { s with script := rest, reply := some (v.setWidth 32) } := by
  rw [h]
  rfl

/-- A read of a byte that holds no value answers the run's next free one (R34). -/
theorem State.take_answerByte_of_none (s : State) (rest : List HostLine) {o : Option Byte} (h : o = none) :
    (s.take rest).answerByte o =
      { s with script := rest, reply := some ((Config.freeByte s.draws).setWidth 32), draws := s.draws + 1 } := by
  rw [h]
  rfl

/-! ### PIX -/

section
variable {s : State} {x y : Half} {c : Chan} {v : Byte}

theorem hostPixWrite_of_inGrid (held : s.gridHeld = true) (hin : s.inGrid x.toNat y.toNat = true) :
    hostPixWrite s x y c v = .next (s.pixStore x.toNat y.toNat c.toNat v) := by
  simp [hostPixWrite, held, hin]

theorem hostPixWrite_of_outOfGrid (held : s.gridHeld = true) (hout : s.inGrid x.toNat y.toNat = false) :
    hostPixWrite s x y c v = .next (s.raise .gridBounds) := by
  simp [hostPixWrite, held, hout]

theorem hostPixWrite_of_not_held (unheld : s.gridHeld = false) :
    hostPixWrite s x y c v = .refused .gridWithoutDimensions := by
  simp [hostPixWrite, unheld]

theorem hostPixRead_of_inGrid (held : s.gridHeld = true) (hin : s.inGrid x.toNat y.toNat = true) :
    hostPixRead s x y c = .next (s.answerByte (s.pixByte x.toNat y.toNat c.toNat)) := by
  simp [hostPixRead, held, hin]

theorem hostPixRead_of_outOfGrid (held : s.gridHeld = true) (hout : s.inGrid x.toNat y.toNat = false) :
    hostPixRead s x y c = .next ((s.raise .gridBounds).answerByte none) := by
  simp [hostPixRead, held, hout]

theorem hostPixRead_of_not_held (unheld : s.gridHeld = false) :
    hostPixRead s x y c = .refused .gridWithoutDimensions := by
  simp [hostPixRead, unheld]

end

/-- A host write of one channel byte of the grid, seen at any channel byte of PIX (R64). -/
theorem State.pixByte_pixStore_host (s : State) {x y : Half} {c : Chan} (v : Byte) (x' y' : Half) (c' : Chan)
    (hin : s.inGrid x.toNat y.toNat = true) :
    (s.pixStore x.toNat y.toNat c.toNat v).pixByte x'.toNat y'.toNat c'.toNat =
      if (x', y', c') = (x, y, c) then some v else s.pixByte x'.toNat y'.toNat c'.toNat := by
  rw [s.pixByte_pixStore v y.isLt c.isLt y'.isLt c'.isLt hin]
  simp only [Prod.mk.injEq, BitVec.toNat_inj]

/-- Settles O41: by the three cases of the access; in bounds the keys of different triples differ. -/
theorem hostPixWriteIsBoundsChecked : Obligations.HostPixWriteIsBoundsChecked := by
  intro s rest x y c v h
  rw [step_of_hostTurn h]
  refine ⟨fun held hx hy => ?_, fun held hout => ?_, fun unheld => hostPixWrite_of_not_held (s := s.take rest) unheld⟩
  · have hin : (s.take rest).inGrid x.toNat y.toNat = true := (State.inGrid_iff _ _ _).mpr ⟨hx, hy⟩
    refine ⟨_, hostPixWrite_of_inGrid held hin, rfl, ?_, fun x' y' c' hne => ?_⟩
    · rw [State.pixByte_pixStore_host _ v x y c hin, if_pos rfl]
    · rw [State.pixByte_pixStore_host _ v x' y' c' hin, if_neg hne]
      rfl
  · exact hostPixWrite_of_outOfGrid (s := s.take rest) held ((State.inGrid_eq_false_iff _ _ _).mpr hout)

/-- Settles O42: by the three cases of the access, and in bounds by whether the byte holds a value. -/
theorem hostPixReadIsBoundsChecked : Obligations.HostPixReadIsBoundsChecked := by
  intro s rest x y c h
  rw [step_of_hostTurn h]
  refine ⟨fun held hx hy => ?_, fun held hout => ?_, fun unheld => hostPixRead_of_not_held (s := s.take rest) unheld⟩
  · have hread : hostMove (s.take rest) (.pixr x y c) =
        .next ((s.take rest).answerByte (s.pixByte x.toNat y.toNat c.toNat)) :=
      hostPixRead_of_inGrid held ((State.inGrid_iff _ _ _).mpr ⟨hx, hy⟩)
    rw [hread]
    exact ⟨fun v hv => congrArg _ (s.take_answerByte_of_value rest hv),
      fun hnone => ⟨_, congrArg _ (s.take_answerByte_of_none rest hnone)⟩⟩
  · exact ⟨Config.freeByte s.draws,
      hostPixRead_of_outOfGrid (s := s.take rest) held ((State.inGrid_eq_false_iff _ _ _).mpr hout)⟩

/-! ### MSG -/

/-- Every 32-bit index lies in a message buffer of the default size (R67). -/
theorem index_lt_msgbuf (i : Word) : i.toNat < Config.msgbufBytes := i.isLt

theorem hostMsgWrite_eq (s : State) (i : Word) (v : Byte) : hostMsgWrite s i v = .next (s.msgStore i.toNat v) :=
  if_pos (index_lt_msgbuf i)

theorem hostMsgRead_eq (s : State) (i : Word) : hostMsgRead s i = .next (s.answerByte (s.msgByte i.toNat)) :=
  if_pos (index_lt_msgbuf i)

/-- Settles O43: every index is in the buffer, and a store is read at its own index alone. -/
theorem hostMessageAccess : Obligations.HostMessageAccess := by
  refine ⟨fun s rest i v h => ?_, fun s rest i h => ?_⟩
  · refine ⟨_, (step_of_hostTurn h).trans (hostMsgWrite_eq _ i v), rfl, ?_, fun j hj => ?_⟩
    · rw [State.msgByte_msgStore, if_pos rfl]
    · rw [State.msgByte_msgStore, if_neg hj]
      rfl
  · have hread : step s = .next ((s.take rest).answerByte (s.msgByte i.toNat)) :=
      (step_of_hostTurn h).trans (hostMsgRead_eq _ i)
    rw [hread]
    exact ⟨fun v hv => congrArg _ (s.take_answerByte_of_value rest hv),
      fun hnone => ⟨_, congrArg _ (s.take_answerByte_of_none rest hnone)⟩⟩

end Sys2Proof.Machine

/-! SUPPORT. The opcode map (R90 to R95): a byte decodes to the command whose code it is, and the other bytes are
illegal. -/

namespace Sys2Proof

/-- Every command is well formed, and its code is legal and decodes to it (R90 to R93). -/
theorem roundTrip (i : Instr) : Laws.RoundTrip.Statement i := by
  cases i with
  | cap => exact Laws.RoundTrip.cap
  | enc => exact Laws.RoundTrip.enc
  | dec => exact Laws.RoundTrip.dec

theorem decode_encode (i : Instr) : decode (encode i) = .ok i :=
  let ⟨_, _, decodes⟩ := roundTrip i
  decodes

theorem commandByteLegal_iff (op : Byte) : commandByteLegal op = true ↔ op = 0x01 ∨ op = 0x02 ∨ op = 0x03 := by
  simp [commandByteLegal, or_assoc]

/-- The legal bytes are the codes of the commands. -/
theorem commandByteLegal_iff_exists_encode (op : Byte) : commandByteLegal op = true ↔ ∃ i, encode i = op := by
  constructor
  · rw [commandByteLegal_iff]
    rintro (rfl | rfl | rfl)
    · exact ⟨.cap, rfl⟩
    · exact ⟨.enc, rfl⟩
    · exact ⟨.dec, rfl⟩
  · rintro ⟨i, rfl⟩
    obtain ⟨-, legal, -⟩ := roundTrip i
    exact legal

/-- A mask of ones compares the whole byte. -/
theorem and_mask_eq_iff (op code : Byte) : op &&& 0xFF = code ↔ op = code := by
  rw [show op &&& 0xFF = op from BitVec.and_allOnes]

/-- A row of the opcode map fits no byte but the code of its command (R91 to R93). -/
theorem encode_eq_of_fits {r : OpcodeRow} (hr : r ∈ opcodeRows) {op : Byte} (hfits : r.fits op = true) :
    encode r.instr = op := by
  have hrow : r.mask = 0xFF ∧ r.pattern = encode r.instr := by
    simp only [opcodeRows, List.mem_cons, List.not_mem_nil, or_false] at hr
    rcases hr with rfl | rfl | rfl <;> exact ⟨rfl, rfl⟩
  obtain ⟨hmask, hpattern⟩ := hrow
  have hmatch : op &&& r.mask = r.pattern := beq_iff_eq.mp hfits
  rw [hmask, and_mask_eq_iff, hpattern] at hmatch
  exact hmatch.symm

/-- No row of the opcode map fits an illegal byte (R95). -/
theorem decode_of_illegal {op : Byte} (illegal : commandByteLegal op = false) :
    decode op = .error (.illegalCommand op) := by
  have hnone : opcodeRows.find? (fun r => r.fits op) = none := by
    refine List.find?_eq_none.mpr fun r hr hfits => ?_
    have legal := (commandByteLegal_iff_exists_encode op).mpr ⟨r.instr, encode_eq_of_fits hr hfits⟩
    exact absurd legal (Bool.eq_false_iff.mp illegal)
  simp [decode, hnone]

theorem decode_eq_ok_iff (op : Byte) (i : Instr) : decode op = .ok i ↔ encode i = op := by
  constructor
  · intro h
    cases legal : commandByteLegal op with
    | false =>
      rw [decode_of_illegal legal] at h
      cases h
    | true =>
      obtain ⟨j, rfl⟩ := (commandByteLegal_iff_exists_encode op).mp legal
      rw [decode_encode] at h
      cases h
      rfl
  · rintro rfl
    exact decode_encode i

/-- Settles O1: under the mask of ones a row matches the code of its command alone. -/
theorem commandCodesDecode : Obligations.CommandCodesDecode := by
  intro op
  simp only [decode_eq_ok_iff, and_mask_eq_iff, eq_comm (a := op)]
  exact ⟨Iff.rfl, Iff.rfl, Iff.rfl⟩

/-- Settles O2: decoding and encoding are inverse, and the codes are the legal bytes. -/
theorem commandCodesRoundTrip : Obligations.CommandCodesRoundTrip := by
  refine ⟨fun i => ?_, fun op i => (decode_eq_ok_iff op i).mp, fun op => ?_⟩
  · obtain ⟨wellFormed, -, decodes⟩ := roundTrip i
    exact ⟨wellFormed, decodes⟩
  · simp only [decode_eq_ok_iff, commandByteLegal_iff_exists_encode]

end Sys2Proof

/-! SUPPORT. The launch with an illegal code, the launch alone, and the steps of a BUSY engine (R95, R223, R226, R254). -/

namespace Sys2Proof.Machine

section
variable {s : State} {v : Word}

theorem writeCommand_of_illegal (h : commandByteLegal (commandByte v) = false) :
    writeCommand s v = .next (s.begin.raise .illegalCommand) := by
  simp [writeCommand, decode_of_illegal h]

theorem writeCommandPaced_of_illegal (h : commandByteLegal (commandByte v) = false) :
    writeCommandPaced s v = .next (s.begin.raise .illegalCommand) := by
  simp [writeCommandPaced, decode_of_illegal h]

theorem writeCommandPaced_ok {i : Instr} (h : decode (commandByte v) = .ok i) :
    writeCommandPaced s v = launchOnly i s := by
  simp [writeCommandPaced, h]

/-- With no host line a BUSY engine makes its micro-step (R79). -/
theorem step_of_busy_no_line (busy : s.status = .busy) (line : s.script = []) : step s = microStep s := by
  simp [step, turn, busy, line]

/-- With no host line a block that is not BUSY stays as it is (R254). -/
theorem step_of_free_no_line (free : s.status ≠ .busy) (line : s.script = []) : step s = .next s := by
  simp [step, turn, free, line]

theorem step_of_busy_line {l : HostLine} {rest : List HostLine} (busy : s.status = .busy)
    (line : s.script = l :: rest) : step s = busyTurn (s.take rest) s l := by
  simp [step, turn, busy, line]

/-- A WAIT of a BUSY block reads STATUS as 1 (R23, R98). -/
theorem State.answer_status_of_busy (busy : s.status = .busy) :
    s.answer ((statusCode s.status).setWidth 32) = { s with reply := some 1 } := by
  have hcode : (statusCode s.status).setWidth 32 = (1 : Word) := by rw [busy]; rfl
  exact congrArg s.answer hcode

end

/-- Settles O3: at either granularity the decoder's refusal is the error, raised on the state with the line taken. -/
theorem otherCodesRaiseIllegalCommand : Obligations.OtherCodesRaiseIllegalCommand := by
  intro s rest v hturn hcap henc hdec
  have illegal : commandByteLegal (commandByte v) = false := by
    rw [Bool.eq_false_iff, Ne, commandByteLegal_iff]
    exact not_or.mpr ⟨hcap, not_or.mpr ⟨henc, hdec⟩⟩
  refine ⟨decode_of_illegal illegal, ?_⟩
  obtain whole | paced := hturn
  · exact (step_wr whole).trans (writeCommand_of_illegal illegal)
  · exact (step_of_hostTurn paced).trans (writeCommandPaced_of_illegal illegal)

/-- Settles O5: one equation of the turn per clause. -/
theorem stepAtMicroStepGranularity : Obligations.StepAtMicroStepGranularity := by
  refine ⟨fun s rest v i h code => ?_, fun s => step_of_busy_no_line, fun s rest busy line => ?_,
    fun s rest busy line => ?_, fun s => step_of_free_no_line⟩
  · exact (step_of_hostTurn h).trans (writeCommandPaced_ok code)
  · exact step_of_busy_line busy line
  · rw [← State.answer_status_of_busy busy]
    exact step_of_busy_line busy line

end Sys2Proof.Machine

/-! SUPPORT. What DEC depends on: the dimensions, the carrier bits of the framed message, and that its pixels hold values
(R202, R231). -/

namespace Sys2Proof.Machine

section
variable {s s' : State} (hw : s.width = s'.width) (hh : s.height = s'.height)
include hw hh

theorem State.gridHeld_congr : s'.gridHeld = s.gridHeld := by
  simp only [State.gridHeld, hw, hh]

theorem State.carriers_congr : s'.carriers = s.carriers := by
  simp only [State.carriers, State.w, State.h, hw, hh]

theorem State.holdsHeader_congr : s'.holdsHeader = s.holdsHeader := by
  simp only [State.holdsHeader, State.carriers_congr hw hh]

theorem State.holdsFramed_congr (n : Nat) : s'.holdsFramed n = s.holdsFramed n := by
  simp only [State.holdsFramed, State.carriers_congr hw hh]

end

/-- A DEC that is done passed both checks, and its message bytes are the carrier bytes from 4 on (R196, R200). -/
theorem execDec_done {s t : State} (h : execDec s = .next t) (hdone : t.status = .done) :
    ∃ hd, s.gridHeld = true ∧ s.holdsHeader = true ∧ s.carrierHeader = some hd ∧
      s.holdsFramed (combineToInt hd).toNat = true ∧ t.msglen = { val := combineToInt hd, held := true } ∧
      ∀ j < (combineToInt hd).toNat, t.msgByte j = s.carrierByte (4 + j) := by
  obtain ⟨held, ⟨-, rfl⟩ | ⟨hroom, -, hd, hhd, ⟨-, rfl⟩ | ⟨hfits, -, r, b, hr, -, rfl⟩⟩⟩ := execDec_cases h
  · cases hdone
  · cases hdone
  · exact ⟨hd, held, hroom, hhd, hfits, rfl, fun j hj => (((s.extract_spec _).2 r hr).1 j hj).1⟩

/-- Settles O30: header and message bytes are made of the carrier bits that the two states share. -/
theorem decReadsOnlyItsCarrierBits : Obligations.DecReadsOnlyItsCarrierBits := by
  intro s s' t hw hh h hdone hbits hheld
  obtain ⟨hd, held, hroom, hhd, hfits, hmsglen, hbytes⟩ := execDec_done h hdone
  have hlen : t.len = (combineToInt hd).toNat := by simp [State.len, hmsglen]
  rw [hlen] at hbits hheld ⊢
  have hshared (k : Nat) (hk : k < 8 * (4 + (combineToInt hd).toNat)) : s'.carrierBit k = s.carrierBit k :=
    (hbits k hk).symm
  have hheader : s'.carrierHeader = some hd :=
    (State.carrierHeader_congr fun k hk => hshared k (by omega)).trans hhd
  obtain ⟨t', h', hdone', -, hmsglen', hbytes', -⟩ := decCompletes s' hd ((State.gridHeld_congr hw hh).trans held)
    ((State.holdsHeader_congr hw hh).trans hroom) hheader ((State.holdsFramed_congr hw hh _).trans hfits) hheld
  refine ⟨t', h', hdone', hmsglen'.trans hmsglen.symm, fun j hj => ?_⟩
  calc t'.msgByte j = s'.carrierByte (4 + j) := (hbytes' j hj).1
    _ = s.carrierByte (4 + j) := State.carrierByte_congr (4 + j) fun i hi => hshared _ (by omega)
    _ = t.msgByte j := (hbytes j hj).symm

end Sys2Proof.Machine

/-! SUPPORT. The bit functions bit by bit (R110, R111), and the LSB functions as those at MSB-index 7 (R112, R113,
R115). -/

namespace Sys2Proof.Machine

/-- The mask `0x80 >> i` is the power of two of bit `7 - i` (R14). -/
theorem bitMask_eq_twoPow (i : BitIdx) : bitMask i = BitVec.twoPow 8 (7 - i.toNat) := by
  revert i
  decide

theorem getLsbD_bitMask (i : BitIdx) (k : Nat) : (bitMask i).getLsbD k = decide (k = 7 - i.toNat) := by
  have hbound : 7 - i.toNat < 8 := by omega
  simp only [bitMask_eq_twoPow, BitVec.getLsbD_twoPow, hbound, decide_true, Bool.true_and, eq_comm]

theorem getBit_toNat (v : Byte) (i : BitIdx) : (getBit v i).toNat = v.toNat / 2 ^ (7 - i.toNat) % 2 :=
  Nat.toNat_testBit _ _

theorem getBit_eq_true_iff (v : Byte) (i : BitIdx) : getBit v i = true ↔ v &&& bitMask i ≠ 0 := by
  have hmask : bitMask i ≠ 0 := by
    revert i
    decide
  rw [bitMask_eq_twoPow] at hmask ⊢
  rw [BitVec.and_twoPow, getBit]
  cases v.getLsbD (7 - i.toNat)
  · simp
  · simpa using hmask

/-- Two bytes with the same bit at every MSB-index are equal. -/
theorem eq_of_getBit_eq {v w : Byte} (h : ∀ i, getBit v i = getBit w i) : v = w := by
  refine BitVec.eq_of_getLsbD_eq fun k hk => ?_
  have hindex : 7 - (BitVec.ofNat 3 (7 - k)).toNat = k := by
    rw [BitVec.toNat_ofNat]
    omega
  have hbit := h (BitVec.ofNat 3 (7 - k))
  rwa [getBit, getBit, hindex] at hbit

/-- What each bit of a byte is after `setBit` (R111). -/
theorem getLsbD_setBit (v : Byte) (i : BitIdx) (b : Bit) (k : Nat) :
    (setBit v i b).getLsbD k = if k = 7 - i.toNat then b else v.getLsbD k := by
  have hclear : 0xFF#8 ^^^ bitMask i = ~~~ bitMask i := BitVec.allOnes_xor
  rw [setBit, hclear, BitVec.getLsbD_or, BitVec.getLsbD_and, BitVec.getLsbD_not, getLsbD_bitMask]
  by_cases hk : k = 7 - i.toNat
  · cases b <;> simp [hk, getLsbD_bitMask]
  · have hbound : v.getLsbD k = true → k < 8 := BitVec.lt_of_getLsbD
    cases b <;> simpa [hk, getLsbD_bitMask] using hbound

/-- Reading any bit after `setBit` (R114). -/
theorem getBit_setBit (v : Byte) (i j : BitIdx) (b : Bit) :
    getBit (setBit v i b) j = if j = i then b else getBit v j := by
  have hindex : 7 - j.toNat = 7 - i.toNat ↔ j = i := by
    rw [← BitVec.toNat_inj]
    omega
  simp only [getBit, getLsbD_setBit, hindex]

theorem setBit_setBit (v : Byte) (i : BitIdx) (a b : Bit) : setBit (setBit v i a) i b = setBit v i b :=
  eq_of_getBit_eq fun j => by
    by_cases hj : j = i
    · simp only [getBit_setBit, if_pos hj]
    · simp only [getBit_setBit, if_neg hj]

theorem setBit_getBit (v : Byte) (i : BitIdx) : setBit v i (getBit v i) = v :=
  eq_of_getBit_eq fun j => by
    by_cases hj : j = i
    · rw [getBit_setBit, if_pos hj, hj]
    · rw [getBit_setBit, if_neg hj]

theorem getLSB_eq_getBit (v : Byte) : getLSB v = getBit v 7 := rfl

theorem setLSB_eq_setBit (v : Byte) (b : Bit) : setLSB v b = setBit v 7 b := rfl

theorem getLSB_toNat (v : Byte) : (getLSB v).toNat = v.toNat % 2 := by
  rw [getLSB_eq_getBit, getBit_toNat]
  simp

theorem getLSB_setLSB (v : Byte) (b : Bit) : getLSB (setLSB v b) = b := by
  rw [getLSB_eq_getBit, setLSB_eq_setBit, getBit_setBit, if_pos rfl]

/-- `setLSB` leaves the seven bits above the last one as they are (R113). -/
theorem setLSB_toNat_div_two (v : Byte) (b : Bit) : (setLSB v b).toNat / 2 = v.toNat / 2 := by
  refine Nat.eq_of_testBit_eq fun k => ?_
  rw [Nat.testBit_div_two, Nat.testBit_div_two, BitVec.testBit_toNat, BitVec.testBit_toNat, setLSB_eq_setBit,
    getLsbD_setBit]
  exact if_neg (Nat.succ_ne_zero k)

theorem setLSB_toNat (v : Byte) (b : Bit) : (setLSB v b).toNat = 2 * (v.toNat / 2) + b.toNat := by
  have hlow : (setLSB v b).toNat % 2 = b.toNat := by rw [← getLSB_toNat, getLSB_setLSB]
  have hhigh := setLSB_toNat_div_two v b
  omega

/-- Settles O6: the bit, its place value, and the mask of MSB-index i (R14). -/
theorem getBitReadsTheMsbIndex : Obligations.GetBitReadsTheMsbIndex :=
  fun v i => ⟨rfl, getBit_toNat v i, getBit_eq_true_iff v i⟩

/-- Settles O7, from what each bit is after `setBit`. -/
theorem setBitThenGetBit : Obligations.SetBitThenGetBit := fun v i j b =>
  ⟨(getBit_setBit v i i b).trans (if_pos rfl), fun hj => (getBit_setBit v i j b).trans (if_neg hj)⟩

/-- Settles O8: the laws of `setBit` at MSB-index 7, read through the agreement of R115. -/
theorem lsbFunctionsAreBitSeven : Obligations.LsbFunctionsAreBitSeven := fun v a b =>
  ⟨getLSB_toNat v, setLSB_toNat v b, rfl, setBit_setBit v 7 a b, setBit_getBit v 7, getLSB_eq_getBit v,
    setLSB_eq_setBit v b⟩

end Sys2Proof.Machine

/-! SUPPORT. The four bytes of a word, as numbers and bit by bit (R120, R121), and the message length in the carrier bits
that an ENC writes (R123, R172). -/

namespace Sys2Proof.Machine

/-! ### The bytes as numbers -/

/-- The byte of a word that begins at bit i, as a number (R120). -/
theorem extractLsb'_byte_toNat (n : Word) (i : Nat) : (n.extractLsb' i 8).toNat = n.toNat / 2 ^ i % 256 := by
  rw [BitVec.extractLsb'_toNat, Nat.shiftRight_eq_div_pow]

theorem splitToBytes_toNat (n : Word) :
    (splitToBytes n).b0.toNat = n.toNat / 2 ^ 24 % 256 ∧ (splitToBytes n).b1.toNat = n.toNat / 2 ^ 16 % 256 ∧
      (splitToBytes n).b2.toNat = n.toNat / 2 ^ 8 % 256 ∧ (splitToBytes n).b3.toNat = n.toNat % 256 :=
  ⟨extractLsb'_byte_toNat n 24, extractLsb'_byte_toNat n 16, extractLsb'_byte_toNat n 8,
    (extractLsb'_byte_toNat n 0).trans (by rw [Nat.pow_zero, Nat.div_one])⟩

/-- A byte shifted into its place in a 32-bit word loses no bit. -/
theorem toNat_setWidth_shiftLeft (b : Byte) {i : Nat} (hi : i ≤ 24) :
    (b.setWidth 32 <<< i).toNat = b.toNat <<< i := by
  have hpow : 2 ^ i ≤ 2 ^ 24 := Nat.pow_le_pow_right (by decide) hi
  have hlt : b.toNat * 2 ^ i < 2 ^ 8 * 2 ^ 24 := Nat.mul_lt_mul_of_lt_of_le b.isLt hpow (by decide)
  rw [BitVec.toNat_shiftLeft, BitVec.toNat_setWidth_of_le (by decide), Nat.shiftLeft_eq]
  exact Nat.mod_eq_of_lt hlt

/-- The four bytes lie in disjoint places, so the OR of R121 is their weighted sum. -/
theorem combineToInt_toNat (h : Header) : (combineToInt h).toNat =
    h.b0.toNat * 2 ^ 24 + h.b1.toNat * 2 ^ 16 + h.b2.toNat * 2 ^ 8 + h.b3.toNat := by
  have h1 := h.b1.isLt
  have h2 := h.b2.isLt
  have h3 := h.b3.isLt
  have hlow : h.b2.toNat <<< 8 + h.b3.toNat < 2 ^ 16 := by omega
  have hmid : h.b1.toNat <<< 16 + (h.b2.toNat <<< 8 + h.b3.toNat) < 2 ^ 24 := by omega
  simp only [combineToInt, BitVec.toNat_or, toNat_setWidth_shiftLeft _ (Nat.le_refl 24),
    toNat_setWidth_shiftLeft _ (by decide : 16 ≤ 24), toNat_setWidth_shiftLeft _ (by decide : 8 ≤ 24),
    BitVec.toNat_setWidth_of_le (by decide : 8 ≤ 32), Nat.or_assoc]
  rw [← Nat.shiftLeft_add_eq_or_of_lt h3, ← Nat.shiftLeft_add_eq_or_of_lt hlow, ← Nat.shiftLeft_add_eq_or_of_lt hmid]
  omega

theorem combineToInt_splitToBytes (n : Word) : combineToInt (splitToBytes n) = n := by
  obtain ⟨h0, h1, h2, h3⟩ := splitToBytes_toNat n
  apply BitVec.eq_of_toNat_eq
  rw [combineToInt_toNat, h0, h1, h2, h3]
  omega

/-- Headers of the same number are the same, byte by byte: its base-256 digits are the bytes. -/
theorem combineToInt_inj {g h : Header} (he : combineToInt g = combineToInt h) : g = h := by
  have hsum := congrArg BitVec.toNat he
  rw [combineToInt_toNat, combineToInt_toNat] at hsum
  obtain ⟨g0, g1, g2, g3⟩ := g
  obtain ⟨h0, h1, h2, h3⟩ := h
  rw [Header.mk.injEq]
  bv_omega

theorem splitToBytes_combineToInt (h : Header) : splitToBytes (combineToInt h) = h :=
  combineToInt_inj (combineToInt_splitToBytes _)

/-- Settles O9: the numbers of the bytes, their weighted sum, and that no two headers have the same sum. -/
theorem splitAndCombineAreInverse : Obligations.SplitAndCombineAreInverse :=
  ⟨fun n =>
    have ⟨h0, h1, h2, h3⟩ := splitToBytes_toNat n
    ⟨h0, h1, h2, h3, combineToInt_splitToBytes n⟩,
   fun h => ⟨combineToInt_toNat h, splitToBytes_combineToInt h⟩⟩

/-! ### The bytes bit by bit -/

/-- Byte j is `length[31 - 8j : 24 - 8j]` (R120). -/
theorem headerByte_splitToBytes (n : Word) {j : Nat} (hj : j < 4) :
    headerByte (splitToBytes n) j = n.extractLsb' (8 * (3 - j)) 8 := by
  interval_cases j <;> rfl

/-- Bit k of the four bytes, most significant first, is bit 31 - k of the word (R120, R123). -/
theorem getBit_headerByte_splitToBytes (n : Word) {k : Nat} (hk : k < 32) :
    getBit (headerByte (splitToBytes n) (k / 8)) (BitVec.ofNat 3 (k % 8)) = n.getLsbD (31 - k) := by
  have hindex : 8 * (3 - k / 8) + (7 - k % 8) = 31 - k := by omega
  have hbit : 7 - k % 8 < 8 := by omega
  rw [headerByte_splitToBytes n (by omega), getBit, BitVec.toNat_ofNat, Nat.mod_mod, BitVec.getLsbD_extractLsb', hindex,
    decide_eq_true hbit, Bool.true_and]

/-! ### The wire format (R72, R123) -/

/-- The first 32 framed bits are those of MSGLEN, most significant first (R172). -/
theorem State.framedBit_header (s : State) {k : Nat} (hk : k < 32) :
    s.framedBit k = some (s.msglen.val.getLsbD (31 - k)) := by
  have hbyte : k / 8 < 4 := by omega
  rw [State.framedBit, State.framedByte, if_pos hbyte, Option.map_some, getBit_headerByte_splitToBytes _ hk]

/-- After the loop of ENC each carrier bit below n holds its framed bit (R173). -/
theorem State.carrierBit_of_embed {s r : State} {n : Nat} (h : s.embed n = some r) {k : Nat} (hk : k < n) :
    ∃ b, s.framedBit k = some b ∧ r.carrierBit k = some b := by
  obtain ⟨hbits, -, -⟩ := (s.embed_spec n).2 r h
  obtain ⟨v, b, -, hb, hcar⟩ := hbits k hk
  exact ⟨b, hb, by rw [State.carrierBit, hcar, Option.map_some, getLSB_setLSB]⟩

/-- An ENC that is done embedded the whole framed message (R177). -/
theorem execEnc_done {s t : State} (h : execEnc s = .next t) (hdone : t.status = .done) :
    ∃ r, s.embed (framedBits s.len) = some r ∧ t = r.encoded := by
  obtain ⟨-, ⟨-, rfl⟩ | ⟨-, -, hembed⟩⟩ := execEnc_cases h
  · cases hdone
  · exact hembed

/-- Every carrier bit of the framed message holds its framed bit after an ENC that is done (R72). -/
theorem carrierBit_of_execEnc_done {s t : State} (h : execEnc s = .next t) (hdone : t.status = .done) {k : Nat}
    (hk : k < framedBits s.len) : ∃ b, s.framedBit k = some b ∧ t.carrierBit k = some b := by
  obtain ⟨r, hr, rfl⟩ := execEnc_done h hdone
  obtain ⟨b, hb, hcar⟩ := State.carrierBit_of_embed hr hk
  exact ⟨b, hb, (State.carrierBit_congr rfl rfl rfl k).trans hcar⟩

/-- Settles O21: the embedded bits are the framed bits, and the first 32 of those are the length's; 32 is 3·10 + 2. -/
theorem encWritesTheWireFormat : Obligations.EncWritesTheWireFormat := by
  refine ⟨fun s t h hdone => ⟨fun k hk => ?_, fun k hk => ?_⟩, fun _ => rfl⟩
  · obtain ⟨b, hb, hcar⟩ := carrierBit_of_execEnc_done h hdone hk
    exact ⟨hcar.trans hb.symm, by simp [hb]⟩
  · obtain ⟨b, hb, hcar⟩ := carrierBit_of_execEnc_done h hdone (k := k) (by unfold framedBits; omega)
    rw [hcar, ← hb, s.framedBit_header hk]

end Sys2Proof.Machine

/-! SUPPORT. The capacity by the two sides of its threshold Q = 8, the bound on Q, and the pixel count at the threshold
(R130, R131). -/

namespace Sys2Proof.Machine

theorem maxEncodeSize_of_lt {w h : Nat} (hq : 3 * w * h / 8 < 8) : maxEncodeSize w h = 0 := if_pos hq

theorem maxEncodeSize_of_ge {w h : Nat} (hq : 8 ≤ 3 * w * h / 8) : maxEncodeSize w h = 3 * w * h / 8 - 4 :=
  if_neg (Nat.not_lt.mpr hq)

theorem maxEncodeSize_eq_zero_iff (w h : Nat) : maxEncodeSize w h = 0 ↔ 3 * w * h / 8 < 8 := by
  obtain hq | hq := Nat.lt_or_ge (3 * w * h / 8) 8
  · simp [maxEncodeSize_of_lt hq, hq]
  · rw [maxEncodeSize_of_ge hq]
    omega

theorem maxEncodeSize_le_quotient (w h : Nat) : maxEncodeSize w h ≤ 3 * w * h / 8 := by
  obtain hq | hq := Nat.lt_or_ge (3 * w * h / 8) 8
  · simp [maxEncodeSize_of_lt hq]
  · exact (maxEncodeSize_of_ge hq).le.trans (Nat.sub_le _ _)

/-- The signed r = Q - 4 is below 4 exactly below the threshold, where the unsigned subtraction is not made (R131). -/
theorem maxEncodeSize_eq_signed (w h : Nat) : (maxEncodeSize w h : Int) =
    if ((3 * w * h / 8 : Nat) : Int) - 4 < 4 then 0 else ((3 * w * h / 8 : Nat) : Int) - 4 := by
  obtain hq | hq := Nat.lt_or_ge (3 * w * h / 8) 8
  · rw [maxEncodeSize_of_lt hq, if_pos (by omega), Int.ofNat_zero]
  · rw [maxEncodeSize_of_ge hq, if_neg (by omega), Nat.cast_sub (by omega), Nat.cast_ofNat]

/-- Q of 16-bit dimensions: 3 · 2^32 / 8 is below 2^31 (R13, R131). -/
theorem capacityQuotient_lt {w h : Nat} (hw : w < 65536) (hh : h < 65536) : 3 * w * h / 8 < 2 ^ 31 := by
  have hpix : w * h < 65536 * 65536 := Nat.mul_lt_mul'' hw hh
  rw [Nat.mul_assoc]
  omega

/-- 21 pixels have 63 carrier bits, 22 have 66, and the threshold is 64 (R131). -/
theorem capacityQuotient_lt_eight_iff (w h : Nat) : 3 * w * h / 8 < 8 ↔ w * h ≤ 21 := by
  rw [Nat.mul_assoc]
  omega

/-- Settles O10: each part by the threshold, the bounds through Q. -/
theorem capacityFormula : Obligations.CapacityFormula := fun w h =>
  ⟨maxEncodeSize_eq_signed w h, maxEncodeSize_eq_zero_or w h,
    fun hw hh => ⟨(maxEncodeSize_le_quotient w h).trans_lt (capacityQuotient_lt hw hh), capacityQuotient_lt hw hh⟩,
    (maxEncodeSize_eq_zero_iff w h).trans (capacityQuotient_lt_eight_iff w h)⟩

end Sys2Proof.Machine

/-! SUPPORT. The traversal followed by its advances: `pixelOf` as the inverse of t = x · H + y, the pixel advance as the
carousel's turn from B to R, and each advance iterated (R143 to R146). -/

namespace Sys2Proof.Machine

theorem pixelOf_zero (h : Nat) : pixelOf h 0 = (0, 0) := by
  simp [pixelOf]

theorem pixelOf_inGrid {w h t : Nat} (h0 : 0 < h) (ht : t < w * h) :
    (pixelOf h t).1 < w ∧ (pixelOf h t).2 < h :=
  ⟨(Nat.div_lt_iff_lt_mul h0).mpr ht, Nat.mod_lt t h0⟩

theorem eq_pixelOf_fst_mul_add_snd (h t : Nat) : t = (pixelOf h t).1 * h + (pixelOf h t).2 :=
  (Nat.div_add_mod' t h).symm

/-- One past the last pixel of a w × h grid (R143). -/
theorem pixelOf_mul {w h : Nat} (h0 : 0 < h) : pixelOf h (w * h) = (w, 0) := by
  simp [pixelOf, h0]

/-- Pixel t of the traversal carries the bits 3 · t, 3 · t + 1 and 3 · t + 2 (R145). -/
theorem carrierPlace_three_mul_add (h t : Nat) {c : Nat} (hc : c < 3) :
    carrierPlace h (3 * t + c) = { x := (pixelOf h t).1, y := (pixelOf h t).2, c := c } := by
  have hdiv : (3 * t + c) / 3 = t := by omega
  have hmod : (3 * t + c) % 3 = c := by omega
  simp [carrierPlace, hdiv, hmod]

/-- One pixel advance goes from pixel t to pixel t + 1: it is what the carousel does from the B bit of pixel t to the R bit
of the next (R144, R146). -/
theorem advancePixel_pixelOf {h : Nat} (h0 : 0 < h) (t : Nat) :
    advancePixel h (pixelOf h t).1 (pixelOf h t).2 = pixelOf h (t + 1) := by
  have hturn : advanceCarousel h (carrierPlace h (3 * t + 2)) = carrierPlace h (3 * (t + 1) + 0) :=
    advanceCarousel_carrierPlace h (3 * t + 2) h0
  rw [carrierPlace_three_mul_add h t (by decide), carrierPlace_three_mul_add h (t + 1) (by decide)] at hturn
  obtain ⟨hx, hy, -⟩ := Place.mk.inj hturn
  exact Prod.ext hx hy

/-- An advance that goes from each place of a sequence to the next, applied k times from the first, reaches place k. -/
theorem iterate_advance {α : Type} {advance : α → α} {place : Nat → α}
    (hstep : ∀ k, advance (place k) = place (k + 1)) (k : Nat) : advance^[k] (place 0) = place k := by
  induction k with
  | zero => rfl
  | succ k ih => rw [Function.iterate_succ_apply', ih, hstep]

theorem iterate_advancePixel {h : Nat} (h0 : 0 < h) (t : Nat) :
    (fun p : Nat × Nat => advancePixel h p.1 p.2)^[t] (0, 0) = pixelOf h t := by
  rw [← pixelOf_zero h]
  exact iterate_advance (advancePixel_pixelOf h0) t

theorem iterate_advanceCarousel {h : Nat} (h0 : 0 < h) (k : Nat) :
    (advanceCarousel h)^[k] { x := 0, y := 0, c := 0 } = carrierPlace h k := by
  rw [← carrierPlace_zero h]
  exact iterate_advance (fun k => advanceCarousel_carrierPlace h k h0) k

/-- Settles O12: the advance follows `pixelOf` past the last pixel too, where `pixelOf` gives (W, 0). -/
theorem pixelAdvanceFollowsTheTraversal : Obligations.PixelAdvanceFollowsTheTraversal := by
  refine fun w h t h0 => ⟨fun ht => ?_, fun hend => ?_⟩
  · obtain ⟨hx, hy⟩ := pixelOf_inGrid h0 ht
    exact ⟨hx, hy, eq_pixelOf_fst_mul_add_snd h t, iterate_advancePixel h0 t⟩
  · rw [iterate_advancePixel h0, hend, pixelOf_mul h0]

/-- Settles O13: the place is R145's by definition, and the carousel follows it bit by bit. -/
theorem carouselFollowsTheCarrierBits : Obligations.CarouselFollowsTheCarrierBits :=
  fun _ k h0 => ⟨rfl, iterate_advanceCarousel h0 k⟩

end Sys2Proof.Machine

/-! SUPPORT. The whole bit sequence by index, and the pulls that yield it (R160 to R162). -/

namespace Sys2Proof.Machine

theorem length_produce (bytes : List Byte) : (produce bytes).length = 8 * bytes.length := by
  induction bytes with
  | nil => rfl
  | cons v vs ih => rw [produce_cons, List.length_append, length_byteBits, ih, List.length_cons]; omega

theorem byteBits_getElem? (v : Byte) {k : Nat} (hk : k < 8) : (byteBits v)[k]? = some (getBit v (BitVec.ofNat 3 k)) := by
  have hindex : (BitVec.ofNat 3 k).toNat = k := Nat.mod_eq_of_lt hk
  rw [← byteBits_getElem v (BitVec.ofNat 3 k), List.getElem?_eq_getElem (by simpa using hk)]
  simp only [hindex]

/-- Bit k of the sequence lies in byte k div 8, at MSB-index k mod 8; past the end there is neither (R161). -/
theorem produce_getElem? (bytes : List Byte) (k : Nat) :
    (produce bytes)[k]? = (bytes[k / 8]?).map (fun v => getBit v (BitVec.ofNat 3 (k % 8))) := by
  induction bytes generalizing k with
  | nil => rfl
  | cons v vs ih =>
    rw [produce_cons]
    by_cases hk : k < 8
    · have hdiv : k / 8 = 0 := Nat.div_eq_of_lt hk
      rw [List.getElem?_append_left hk, byteBits_getElem? v hk, hdiv, Nat.mod_eq_of_lt hk,
        List.getElem?_cons_zero, Option.map_some]
    · have hle : 8 ≤ k := Nat.le_of_not_lt hk
      have hdiv : k / 8 = (k - 8) / 8 + 1 := by omega
      have hmod : k % 8 = (k - 8) % 8 := by omega
      rw [List.getElem?_append_right hle, length_byteBits, ih, hdiv, hmod, List.getElem?_cons_succ]

/-- Each pull takes one bit off the sequence, as long as there is one: after n pulls the bits from bit n on are left. -/
theorem unpulled_cursorAfter (bytes : List Byte) (n : Nat) :
    unpulled bytes (cursorAfter bytes n) = (produce bytes).drop n := by
  induction n with
  | zero => rfl
  | succ n ih =>
    rw [cursorAfter, ← List.tail_drop, ← ih]
    obtain ⟨b, c, hp, hu⟩ | ⟨hp, hu⟩ := pull_cases bytes (cursorAfter bytes n)
    · rw [hp, hu, List.tail_cons]
    · rw [hp, hu, List.tail_nil]

/-- Pull n returns bit n, or finds the sequence at its end (R162). -/
theorem nthPull_cases (bytes : List Byte) (n : Nat) :
    (∃ b, nthPull bytes n = .bit b ∧ (produce bytes)[n]? = some b) ∨
    (nthPull bytes n = .endOfStream ∧ (produce bytes)[n]? = none) := by
  rw [← List.head?_drop, ← unpulled_cursorAfter]
  obtain ⟨b, c, hp, hu⟩ | ⟨hp, hu⟩ := pull_cases bytes (cursorAfter bytes n)
  · exact .inl ⟨b, congrArg Prod.fst hp, by rw [hu, List.head?_cons]⟩
  · exact .inr ⟨congrArg Prod.fst hp, by rw [hu, List.head?_nil]⟩

/-- Settles O14, by induction on the bytes. -/
theorem produceYieldsEachByteMsbFirst : Obligations.ProduceYieldsEachByteMsbFirst :=
  fun bytes => ⟨length_produce bytes, produce_getElem? bytes⟩

/-- Settles O15: after n pulls the bits from bit n on are left, and the pull returns the first of them or the end. -/
theorem pullsYieldTheBitsThenTheEnd : Obligations.PullsYieldTheBitsThenTheEnd := by
  intro bytes n
  rw [← length_produce, ← List.getElem?_eq_none_iff]
  obtain ⟨b, hpull, hbit⟩ | ⟨hpull, hend⟩ := nthPull_cases bytes n
  · simp [hpull, hbit]
  · simp [hpull, hend]

end Sys2Proof.Machine

/-! SUPPORT. The framed message as bytes, and the admission check as room in the grid (R171, R172, R179). -/

namespace Sys2Proof.Machine

/-- The framed bytes of a message m are the header bytes and then those of m (R172). -/
theorem State.framedByte_of_message {s : State} {m : List Byte} (hm : ∀ j, j < s.len → s.msgByte j = m[j]?) {j : Nat}
    (hj : j < 4 + s.len) :
    s.framedByte j = ([(splitToBytes s.msglen.val).b0, (splitToBytes s.msglen.val).b1,
      (splitToBytes s.msglen.val).b2, (splitToBytes s.msglen.val).b3] ++ m)[j]? := by
  by_cases hhdr : j < 4
  · rw [State.framedByte, if_pos hhdr]
    interval_cases j <;> rfl
  · rw [State.framedByte, if_neg hhdr, hm (j - 4) (by omega), List.getElem?_append_right (Nat.le_of_not_lt hhdr)]
    rfl

/-- Settles O17: framed bit k and bit k of the produced sequence both lie in byte k div 8, at MSB-index k mod 8. -/
theorem framedBitsAreProduced : Obligations.FramedBitsAreProduced := by
  intro s m _ hm k hk
  have hbyte : k / 8 < 4 + s.len := Nat.div_lt_of_lt_mul hk
  rw [produce_getElem?, State.framedBit, State.framedByte_of_message hm hbyte]

theorem State.admits_iff (s : State) : s.admits = true ↔ s.len + 4 ≤ maxEncodeSize s.w s.h := decide_eq_true_iff

theorem State.admits_eq_false_iff (s : State) : s.admits = false ↔ maxEncodeSize s.w s.h < s.len + 4 := by
  rw [← Bool.not_eq_true, s.admits_iff, Nat.not_le]

/-- Below the threshold Q = 8 nothing is admitted, and from it on the four bytes of the header and four more stay free
(R131, R171). -/
theorem State.admits_iff_quotient (s : State) : s.admits = true ↔ s.len + 8 ≤ 3 * s.w * s.h / 8 := by
  rw [s.admits_iff]
  obtain hq | hq := Nat.lt_or_ge (3 * s.w * s.h / 8) 8
  · rw [maxEncodeSize_of_lt hq]
    omega
  · rw [maxEncodeSize_of_ge hq]
    omega

theorem State.framedBits_add_le_carriers {s : State} (h : s.admits = true) : framedBits s.len + 32 ≤ s.carriers := by
  have hroom := s.admits_iff_quotient.mp h
  unfold framedBits
  rw [s.carriers_eq]
  omega

/-- An admitted ENC that answers is done without error (R177, R180). -/
theorem execEnc_done_of_admits {s t : State} (hadm : s.admits = true) (h : execEnc s = .next t) :
    t.status = .done ∧ t.err = .none := by
  obtain ⟨-, ⟨hnot, -⟩ | ⟨-, -, r, -, rfl⟩⟩ := execEnc_cases h
  · exact absurd hadm (Bool.eq_false_iff.mp hnot)
  · exact ⟨rfl, rfl⟩

/-- Settles O18: an ENC with held registers is decided by the check, whose threshold form needs Q ≥ 8. -/
theorem encAdmissionCheck : Obligations.EncAdmissionCheck := fun s =>
  ⟨s.admits_iff_quotient, s.admits_iff.trans Nat.not_lt.symm, fun held => execEnc_of_not_admitted held,
    fun hadm _ => execEnc_done_of_admits hadm⟩

/-- Settles O22: the framed bits are below 3·W·H, so their places are in the grid, and an admitted ENC has no error. -/
theorem encStaysInTheGrid : Obligations.EncStaysInTheGrid := by
  intro s hadm
  have hquot := s.admits_iff_quotient.mp hadm
  have hbound := capacityQuotient_lt s.w_lt s.h_lt
  have hroom := State.framedBits_add_le_carriers hadm
  refine ⟨hroom, by omega, by omega, fun k hk => ?_, fun t h => ?_⟩
  · obtain ⟨hx, hy, -⟩ := carrierPlace_inGrid s.w s.h k (by rw [s.carriers_eq] at hroom; omega)
    exact (s.inGrid_iff _ _).mpr ⟨hx, hy⟩
  · obtain ⟨-, herr⟩ := execEnc_done_of_admits hadm h
    simp [herr]

end Sys2Proof.Machine

/-! SUPPORT. What the loop of ENC leaves in every byte of PIX (R173 to R177). -/

namespace Sys2Proof.Machine

/-- An R, G or B byte of the grid is the carrier byte of its place in the traversal (R145). -/
theorem State.carrier_eq_pixByte (s : State) (x : Nat) {y c : Nat} (hy : y < s.h) (hc : c < 3) :
    s.carrier (3 * (x * s.h + y) + c) = s.pixByte x y c := by
  simp only [State.carrier, carrierPlace_of s.h x y c hy hc]

/-- The loop of ENC leaves a byte that no framed bit goes into: alpha, or beyond the last bit (R175, R176). -/
theorem State.pixByte_of_embed_unwritten {s r : State} {n : Nat} (h : s.embed n = some r) {x y c : Nat} (hy : y < s.h)
    (hc : c < 4) (hout : ¬ (c ≤ 2 ∧ 3 * (x * s.h + y) + c < n)) : r.pixByte x y c = s.pixByte x y c := by
  have hf := State.embed_frame h
  have hh : r.h = s.h := by rw [hf]; rfl
  obtain hrgb | rfl : c < 3 ∨ c = 3 := by omega
  · obtain ⟨-, hbeyond, -⟩ := (s.embed_spec n).2 r h
    rw [← r.carrier_eq_pixByte x (hh ▸ hy) hrgb, ← s.carrier_eq_pixByte x hy hrgb, hh]
    exact hbeyond _ (by omega)
  · have halpha := (EngineFrame.embed h).alpha _ (pixKey_mod_four (x := x) (y := y) hc)
    have hgrid : r.inGrid x y = s.inGrid x y := by rw [hf]; rfl
    simp only [State.pixByte, halpha, hgrid]

/-- After the loop over the whole framed message every byte of the grid is the one R177 gives. -/
theorem State.pixByte_of_embed {s r : State} (h : s.embed (framedBits s.len) = some r) {x y c : Nat} (hy : y < s.h)
    (hc : c < 4) : r.pixByte x y c = s.encodedByte x y c := by
  unfold State.encodedByte
  split
  · rename_i hin
    obtain ⟨hrgb, hk⟩ := hin
    have hh : r.h = s.h := by rw [State.embed_frame h]; rfl
    obtain ⟨hbits, -, -⟩ := (s.embed_spec _).2 r h
    obtain ⟨v, b, hv, hb, hr⟩ := hbits _ hk
    rw [s.carrier_eq_pixByte x hy (by omega)] at hv
    rw [← hh, r.carrier_eq_pixByte x (hh ▸ hy) (by omega)] at hr
    rw [hr, hv, hb]
  · rename_i hout
    exact State.pixByte_of_embed_unwritten h hy hc hout

/-- Settles O19: a failing check is the answer, and an admitted ENC completes with the bytes that its loop leaves. -/
theorem encCompletes : Obligations.EncCompletes := by
  intro s held
  refine ⟨fun hfull => execEnc_of_not_admitted held (s.admits_eq_false_iff.mpr hfull), fun hadm hread => ?_⟩
  obtain ⟨r, hr, hrun⟩ := execEnc_next held (s.admits_iff.mpr hadm) hread
  have hf := State.embed_frame hr
  have hframe := execEnc_frame hrun
  have hmsg : r.msg = s.msg := by rw [hf]
  have hmsglen : r.msglen = s.msglen := by rw [hf]
  exact ⟨r.encoded, hrun, rfl, rfl, fun x y c _ hy hc => State.pixByte_of_embed hr hy hc, hmsg, hmsglen,
    hframe.width, hframe.height, hframe.capacity⟩

/-- `setLSB` keeps bits 7 to 1 (R113, R176). -/
theorem extractLsb'_setLSB (v : Byte) (b : Bit) : (setLSB v b).extractLsb' 1 7 = v.extractLsb' 1 7 := by
  apply BitVec.eq_of_toNat_eq
  rw [BitVec.extractLsb'_toNat, BitVec.extractLsb'_toNat, Nat.shiftRight_one, Nat.shiftRight_one, setLSB_toNat_div_two]

/-- The loop of ENC keeps bits 7 to 1 of every byte that holds a value (R176). -/
theorem State.embed_keeps_high_bits {s r : State} {n : Nat} (h : s.embed n = some r) {a : Nat} {v : Byte}
    (hv : Memory.read s.pix a = some v) :
    ∃ u, Memory.read r.pix a = some u ∧ u.extractLsb' 1 7 = v.extractLsb' 1 7 := by
  obtain ⟨hbits, -, hrest⟩ := (s.embed_spec n).2 r h
  by_cases hkey : ∃ k < n, a = s.carrierKey k
  · obtain ⟨k, hk, rfl⟩ := hkey
    obtain ⟨w, b, hw, -, hr⟩ := hbits k hk
    obtain ⟨-, hold⟩ := State.carrier_inGrid hw
    obtain ⟨-, hnew⟩ := State.carrier_inGrid hr
    obtain rfl : w = v := Option.some.inj (hold.symm.trans hv)
    have hsame : r.carrierKey k = s.carrierKey k := by rw [State.embed_frame h]; rfl
    exact ⟨setLSB w b, hsame ▸ hnew, extractLsb'_setLSB w b⟩
  · rw [hrest a fun k hk he => hkey ⟨k, hk, he⟩]
    exact ⟨v, hv, rfl⟩

/-- Settles O20: a failing check leaves all of it, and the loop changes PIX alone, at the keys of its carrier bits. -/
theorem encFrame : Obligations.EncFrame := by
  intro s t h
  obtain ⟨-, ⟨-, rfl⟩ | ⟨-, -, r, hr, rfl⟩⟩ := execEnc_cases h
  · exact ⟨fun _ _ => rfl, fun a v hv => ⟨v, hv, rfl⟩, fun _ _ => rfl, rfl, rfl, rfl, rfl, rfl, rfl, rfl, rfl, rfl⟩
  · obtain ⟨-, -, hrest⟩ := (s.embed_spec _).2 r hr
    have halpha (x y : Nat) := (EngineFrame.embed hr).alpha _ (pixKey_mod_four (x := x) (y := y) (c := 3) (by decide))
    refine ⟨hrest, fun a v => State.embed_keeps_high_bits hr, halpha, ?_⟩
    rw [State.embed_frame hr]
    exact ⟨rfl, rfl, rfl, rfl, rfl, rfl, rfl, rfl, rfl⟩

end Sys2Proof.Machine

/-! SUPPORT. The micro-steps of ENC beside its loop: after k of them the state is that of k bits embedded, with the cursors
at bit k (R42, R178, R183). -/

namespace Sys2Proof.Machine

/-! ### The cursors at a carrier bit of the grid -/

/-- At a carrier bit of the grid the cursors hold its place, and BYTEIDX its byte (R37 to R40). -/
theorem State.atBit_toNat {s : State} {k : Nat} (hk : k < s.carriers) :
    (s.atBit k).cx.toNat = (carrierPlace s.h k).x ∧ (s.atBit k).cy.toNat = (carrierPlace s.h k).y ∧
      (s.atBit k).ch.toNat = (carrierPlace s.h k).c ∧ (s.atBit k).byteIdx.toNat = k / 8 := by
  have h0 : 0 < s.h := Nat.pos_of_mul_pos_left (Nat.zero_lt_of_lt hk)
  obtain ⟨hx, hy, hc⟩ := State.carrierPlace_bounds h0 hk.le
  have hlt := s.carriers_lt
  have hbyte : k / 8 < 2 ^ 32 := by omega
  exact ⟨Nat.mod_eq_of_lt hx, Nat.mod_eq_of_lt hy, Nat.mod_eq_of_lt hc, Nat.mod_eq_of_lt hbyte⟩

theorem ofNat_bitIdx_succ (k : Nat) : BitVec.ofNat 3 (k % 8) + 1 = BitVec.ofNat 3 ((k + 1) % 8) := by
  bv_omega

/-- BYTEIDX goes up where BITIDX goes from 7 to 0 (R161, R178). -/
theorem ofNat_byteIdx_succ (k : Nat) :
    (if BitVec.ofNat 3 ((k + 1) % 8) = 0 then BitVec.ofNat 32 (k / 8) + 1 else BitVec.ofNat 32 (k / 8)) =
      BitVec.ofNat 32 ((k + 1) / 8) := by
  split
  · bv_omega
  · have hsame : (k + 1) / 8 = k / 8 := by bv_omega
    rw [hsame]

/-- The advance after bit k takes the cursors to bit k + 1 (R42, R178, R201). -/
theorem State.advance_atBit {s : State} {k : Nat} (hk : k < s.carriers) : (s.atBit k).advance = s.atBit (k + 1) := by
  have h0 : 0 < s.h := Nat.pos_of_mul_pos_left (Nat.zero_lt_of_lt hk)
  obtain ⟨hx, hy, hc, -⟩ := State.atBit_toNat hk
  simp only [State.advance, State.atBit_h, hx, hy, hc, advanceCarousel_carrierPlace s.h k h0, State.atBit_bitIdx,
    State.atBit_byteIdx, ofNat_bitIdx_succ, ofNat_byteIdx_succ]
  rfl

/-! ### A run of micro-steps -/

/-- One more micro-step at the end of a run. -/
theorem microRun_succ {s t u : State} {n : Nat} (h : microRun s n = .next t) (hlast : microStep t = .next u) :
    microRun s (n + 1) = .next u := by
  induction n generalizing s with
  | zero =>
    cases h
    simp [microRun, hlast]
  | succ n ih =>
    rw [microRun] at h ⊢
    cases hstep : microStep s with
    | next r =>
      rw [hstep] at h
      exact ih h
    | fault f => simp [hstep] at h
    | refused f => simp [hstep] at h

/-! ### The micro-steps of ENC -/

/-- A running ENC at bit k; `s` is the state with the bits before k in PIX (R178). -/
def State.encRunning (s : State) (k : Nat) : State :=
  { s.begin.atBit k with
    phase := .encRun
    hdr := splitToBytes s.msglen.val
    eos := endOfStream (s.atBit k).byteIdx s.msglen.val }

theorem State.encRunning_zero (s : State) : s.encRunning 0 = s.encStart := rfl

/-- In a running ENC, with CH not alpha, the engine's turn is the micro-step of ENC (R35, R178). -/
theorem microStep_encRunning (s : State) (k : Nat) : microStep (s.encRunning k) = encMicroStep (s.encRunning k) :=
  if_neg (ofNat_carrierPlace_c_ne s.h k)

/-- At bit k the micro-step takes its bit from framed byte k div 8 (R172, R178). -/
theorem State.streamByte_encRunning {s : State} {k : Nat} (hk : k < s.carriers) :
    (s.encRunning k).streamByte = s.framedByte (k / 8) := by
  obtain ⟨-, -, -, hbyte⟩ := State.atBit_toNat hk
  rw [State.streamByte, show (s.encRunning k).byteIdx.toNat = k / 8 from hbyte]
  rfl

/-- Before the last framed bit the stream goes on; after it, it is at its end (R45). -/
theorem State.endOfStream_atBit {s : State} {k : Nat} (hk : k < s.carriers) :
    endOfStream (s.atBit k).byteIdx s.msglen.val = decide (k / 8 = s.len + 4) := by
  obtain ⟨-, -, -, hbyte⟩ := State.atBit_toNat hk
  rw [endOfStream, hbyte, beq_eq_decide]
  rfl

theorem encMicroStep_of_end {s : State} (hend : endOfStream s.byteIdx s.msglen.val = true) :
    encMicroStep s = .next s.complete :=
  if_pos hend

/-- Before the end of the stream one bit goes into the current channel byte (R178). -/
theorem encMicroStep_of_bit {s r : State} {byte v : Byte} (hgo : endOfStream s.byteIdx s.msglen.val = false)
    (hin : s.inGrid s.cx.toNat s.cy.toNat = true) (hbyte : s.streamByte = some byte)
    (hv : s.pixByte s.cx.toNat s.cy.toNat s.ch.toNat = some v)
    (hr : (s.pixStore s.cx.toNat s.cy.toNat s.ch.toNat (setLSB v (getBit byte s.bitIdx))).advance = r) :
    encMicroStep s = .next { r with eos := endOfStream r.byteIdx s.msglen.val } := by
  simp [encMicroStep, hgo, hin, hbyte, hv, hr]

/-- A store to PIX moves no cursor. -/
theorem State.pixStore_encRunning (s : State) (k x y c : Nat) (v : Byte) :
    (s.encRunning k).pixStore x y c v = (s.pixStore x y c v).encRunning k := rfl

theorem State.advance_encRunning {s : State} {k : Nat} (hk : k < s.carriers) :
    (s.encRunning k).advance = { s.encRunning (k + 1) with eos := (s.encRunning k).eos } :=
  congrArg (fun u : State => { u with
    phase := .encRun, hdr := splitToBytes s.msglen.val, eos := (s.encRunning k).eos })
    (State.advance_atBit (s := s.begin) hk)

/-- Where the loop of ENC embeds bit k, the micro-step at bit k does the same and goes on to bit k + 1 (R173, R178). -/
theorem microStep_of_embedBit {s t : State} {k : Nat} (hk : k < framedBits s.len)
    (hroom : framedBits s.len ≤ s.carriers) (h : s.embedBit k = some t) :
    microStep (s.encRunning k) = .next (t.encRunning (k + 1)) := by
  obtain ⟨v, b, hv, hb, rfl⟩ := State.embedBit_cases h
  obtain ⟨byte, hbyte, rfl⟩ := Option.map_eq_some_iff.mp hb
  obtain ⟨hin, -⟩ := State.carrier_inGrid hv
  have hcar : k < s.carriers := hk.trans_le hroom
  obtain ⟨hx, hy, hc, -⟩ : (s.encRunning k).cx.toNat = _ ∧ (s.encRunning k).cy.toNat = _ ∧
    (s.encRunning k).ch.toNat = _ ∧ _ := State.atBit_toNat hcar
  have hgo : endOfStream (s.encRunning k).byteIdx (s.encRunning k).msglen.val = false := by
    have hlast : k / 8 ≠ s.len + 4 := by unfold framedBits at hk; omega
    exact (State.endOfStream_atBit hcar).trans (decide_eq_false hlast)
  rw [microStep_encRunning, encMicroStep_of_bit hgo (by rw [hx, hy]; exact hin)
    ((State.streamByte_encRunning hcar).trans hbyte) (by rw [hx, hy, hc]; exact hv) rfl, hx, hy, hc,
    State.pixStore_encRunning, State.advance_encRunning (by exact hcar)]
  rfl

/-- n micro-steps after the launch of an ENC its loop has embedded n bits (R178). -/
theorem microRun_encStart {s r : State} {n : Nat} (hroom : framedBits s.len ≤ s.carriers) (hn : n ≤ framedBits s.len)
    (h : s.embed n = some r) : microRun s.encStart n = .next (r.encRunning n) := by
  induction n generalizing r with
  | zero =>
    cases h
    rfl
  | succ n ih =>
    simp only [State.embed] at h
    split at h
    · rename_i q hq
      have hf := State.embed_frame hq
      have hlen : q.len = s.len := by rw [hf]; rfl
      have hcar : q.carriers = s.carriers := by rw [hf]; rfl
      refine microRun_succ (ih (Nat.le_of_succ_le hn) hq) (microStep_of_embedBit ?_ ?_ h)
      · rwa [hlen]
      · rwa [hlen, hcar]
    · cases h

/-- After the last framed bit the micro-step completes ENC (R178, R222). -/
theorem microStep_encRunning_last {s : State} (hroom : framedBits s.len < s.carriers) :
    microStep (s.encRunning (framedBits s.len)) = .next s.encoded := by
  have hlast : framedBits s.len / 8 = s.len + 4 := by unfold framedBits; omega
  have hend : endOfStream (s.atBit (framedBits s.len)).byteIdx s.msglen.val = true :=
    (State.endOfStream_atBit hroom).trans (decide_eq_true hlast)
  rw [microStep_encRunning, encMicroStep_of_end (s := s.encRunning _) hend, State.encRunning, hend]
  rfl

theorem launchEnc_of_not_admitted {s t : State} (h : execEnc s = .next t) (hadm : s.admits = false) :
    launchEnc s = .next (s.begin.raise .capacityExceeded) := by
  simp [launchEnc, h, hadm]

theorem launchEnc_of_admitted {s t : State} (h : execEnc s = .next t) (hadm : s.admits = true) :
    launchEnc s = .next s.encStart := by
  simp [launchEnc, h, hadm]

/-- Settles O24: a failing check ends either granularity at once; else the micro-steps follow the loop, and the one after
its last bit completes. -/
theorem encMicroStepsReachTheTransition : Obligations.EncMicroStepsReachTheTransition := by
  intro s t h
  obtain ⟨-, ⟨hadm, rfl⟩ | ⟨hadm, -, r, hr, rfl⟩⟩ := execEnc_cases h
  · exact ⟨fun hdone => (nomatch hdone), fun _ => launchEnc_of_not_admitted h hadm⟩
  · refine ⟨fun _ => ⟨s.encStart, launchEnc_of_admitted h hadm, rfl, ?_⟩, fun hnot => absurd rfl hnot⟩
    have hf := State.embed_frame hr
    have hlen : r.len = s.len := by rw [hf]; rfl
    have hcar : r.carriers = s.carriers := by rw [hf]; rfl
    have hroom := State.framedBits_add_le_carriers hadm
    have hlast := microStep_encRunning_last (s := r) (by rw [hlen, hcar]; omega)
    rw [hlen] at hlast
    exact microRun_succ (microRun_encStart (by omega) (Nat.le_refl _) hr) hlast

end Sys2Proof.Machine

/-! SUPPORT. Carrier bytes bit by bit: their eight carrier bits, most significant first (R192), and the header as the first
four of them (R193). -/

namespace Sys2Proof.Machine

/-- One more bit of a carrier byte (R192, R201). -/
theorem State.assemble_succ_eq_some_iff (s : State) (j n : Nat) (v : Byte) : s.assemble j (n + 1) = some v ↔
    ∃ r b, s.assemble j n = some r ∧ s.carrierBit (8 * j + n) = some b ∧ v = setBit r (BitVec.ofNat 3 n) b := by
  rw [State.assemble]
  cases s.assemble j n <;> cases s.carrierBit (8 * j + n) <;> simp [eq_comm]

/-- The bits put in stay in place while the later ones follow (R114, R192). -/
theorem State.carrierBit_of_assemble {s : State} {j n : Nat} (hn : n ≤ 8) {v : Byte} (h : s.assemble j n = some v)
    (i : BitIdx) (hi : i.toNat < n) : s.carrierBit (8 * j + i.toNat) = some (getBit v i) := by
  induction n generalizing v with
  | zero => exact absurd hi (Nat.not_lt_zero _)
  | succ n ih =>
    obtain ⟨r, b, hr, hb, rfl⟩ := (s.assemble_succ_eq_some_iff j n v).mp h
    rw [getBit_setBit]
    split
    · rename_i hnew
      have hindex : i.toNat = n := by bv_omega
      rw [hindex, hb]
    · exact ih (by omega) hr (by bv_omega)

/-- Where the bits put in hold values so does the byte (R34, R192). -/
theorem State.assemble_ne_none_of_carrierBit {s : State} {j n : Nat}
    (h : ∀ i < n, s.carrierBit (8 * j + i) ≠ none) : s.assemble j n ≠ none := by
  induction n with
  | zero => simp [State.assemble]
  | succ n ih =>
    obtain ⟨r, hr⟩ := Option.ne_none_iff_exists'.mp (ih fun i hi => h i (by omega))
    obtain ⟨b, hb⟩ := Option.ne_none_iff_exists'.mp (h n (by omega))
    simp [State.assemble, hr, hb]

theorem State.carrierByte_ne_none_of_carrierBit {s : State} {j : Nat}
    (h : ∀ i : BitIdx, s.carrierBit (8 * j + i.toNat) ≠ none) : s.carrierByte j ≠ none :=
  State.assemble_ne_none_of_carrierBit fun i hi => by
    have hbit := h (BitVec.ofNat 3 i)
    rwa [BitVec.toNat_ofNat, Nat.mod_eq_of_lt hi] at hbit

/-- A carrier byte is the byte whose bits, most significant first, are its carrier bits (R192). -/
theorem State.carrierByte_eq_some_iff (s : State) (j : Nat) (v : Byte) :
    s.carrierByte j = some v ↔ ∀ i : BitIdx, s.carrierBit (8 * j + i.toNat) = some (getBit v i) := by
  refine ⟨fun h i => State.carrierBit_of_assemble (Nat.le_refl 8) h i i.isLt, fun h => ?_⟩
  obtain ⟨w, hw⟩ := Option.ne_none_iff_exists'.mp
    (State.carrierByte_ne_none_of_carrierBit (s := s) (j := j) fun i => by simp [h i])
  have hsame : w = v := eq_of_getBit_eq fun i =>
    Option.some.inj ((State.carrierBit_of_assemble (Nat.le_refl 8) hw i i.isLt).symm.trans (h i))
  rw [hw, hsame]

/-- Settles O25: the bits of an assembled byte stay where they were put, and its bits hold values only if it does. -/
theorem carrierByteIsMsbFirst : Obligations.CarrierByteIsMsbFirst := fun s j =>
  ⟨fun v => (s.carrierByte_eq_some_iff j v).mp, State.carrierByte_ne_none_of_carrierBit⟩

/-- Headers are the same when their four bytes are (R44). -/
theorem eq_of_headerByte_eq {g h : Header} (heq : ∀ j < 4, headerByte g j = headerByte h j) : g = h := by
  obtain ⟨g0, g1, g2, g3⟩ := g
  obtain ⟨h0, h1, h2, h3⟩ := h
  rw [Header.mk.injEq]
  exact ⟨heq 0 (by decide), heq 1 (by decide), heq 2 (by decide), heq 3 (by decide)⟩

theorem State.carrierHeader_eq_some_iff (s : State) (h : Header) : s.carrierHeader = some h ↔
    s.carrierByte 0 = some h.b0 ∧ s.carrierByte 1 = some h.b1 ∧
      s.carrierByte 2 = some h.b2 ∧ s.carrierByte 3 = some h.b3 := by
  obtain ⟨b0, b1, b2, b3⟩ := h
  rw [State.carrierHeader]
  cases s.carrierByte 0 <;> cases s.carrierByte 1 <;> cases s.carrierByte 2 <;> cases s.carrierByte 3 <;> simp

/-- Byte j of the header is carrier byte j (R193). -/
theorem State.carrierByte_of_carrierHeader {s : State} {h : Header} (hh : s.carrierHeader = some h) {j : Nat}
    (hj : j < 4) : s.carrierByte j = some (headerByte h j) := by
  obtain ⟨h0, h1, h2, h3⟩ := (s.carrierHeader_eq_some_iff h).mp hh
  interval_cases j
  · exact h0
  · exact h1
  · exact h2
  · exact h3

/-- Settles O26: carrier bit k lies in header byte k div 8, and the header is that of its own number. -/
theorem headerIsTheFirstThirtyTwoCarrierBits : Obligations.HeaderIsTheFirstThirtyTwoCarrierBits := by
  intro s h hh
  obtain ⟨h0, h1, h2, h3⟩ := (s.carrierHeader_eq_some_iff h).mp hh
  refine ⟨h0, h1, h2, h3, fun k hk => ?_⟩
  have hbit := (s.carrierByte_eq_some_iff _ _).mp (State.carrierByte_of_carrierHeader hh (j := k / 8) (by omega))
    (BitVec.ofNat 3 (k % 8))
  have hindex : 8 * (k / 8) + (BitVec.ofNat 3 (k % 8)).toNat = k := by
    rw [BitVec.toNat_ofNat]
    omega
  rw [← getBit_headerByte_splitToBytes _ hk, splitToBytes_combineToInt, ← hbit, hindex]

end Sys2Proof.Machine

/-! SUPPORT. The carrier as DEC reads it does not depend on the other registers (R191 to R193). -/

namespace Sys2Proof.Machine

section
variable {s t : State} (hp : t.pix = s.pix) (hw : t.width = s.width) (hh : t.height = s.height)
include hp hw hh

theorem State.carrier_of_same_carrier (k : Nat) : t.carrier k = s.carrier k :=
  State.carrier_congr (congrArg (·.val.toNat) hw) (congrArg (·.val.toNat) hh) hp k

theorem State.carrierBit_of_same_carrier (k : Nat) : t.carrierBit k = s.carrierBit k :=
  State.carrierBit_congr (congrArg (·.val.toNat) hw) (congrArg (·.val.toNat) hh) hp k

theorem State.carriersHeld_of_same_carrier (n : Nat) : t.carriersHeld n = s.carriersHeld n :=
  State.carriersHeld_congr (congrArg (·.val.toNat) hw) (congrArg (·.val.toNat) hh) hp n

theorem State.carrierByte_of_same_carrier (j : Nat) : t.carrierByte j = s.carrierByte j :=
  State.carrierByte_congr j fun _ _ => State.carrierBit_of_same_carrier hp hw hh _

theorem State.carrierHeader_of_same_carrier : t.carrierHeader = s.carrierHeader :=
  State.carrierHeader_congr fun k _ => State.carrierBit_of_same_carrier hp hw hh k

end

end Sys2Proof.Machine

/-! SUPPORT. What DEC reads after an ENC: the carrier bytes are the framed bytes (R72, R205). -/

namespace Sys2Proof.Machine

/-- Carrier bits that carry the framed message assemble to its bytes (R123, R192). -/
theorem State.carrierByte_eq_framedByte {s d : State} {n j : Nat} (hj : 8 * j + 8 ≤ n)
    (h : ∀ k < n, d.carrierBit k = s.framedBit k) {v : Byte} (hv : s.framedByte j = some v) :
    d.carrierByte j = some v := by
  refine (d.carrierByte_eq_some_iff j v).mpr fun i => ?_
  have hbyte : (8 * j + i.toNat) / 8 = j := by omega
  have hbit : BitVec.ofNat 3 ((8 * j + i.toNat) % 8) = i := by bv_omega
  rw [h _ (by omega), State.framedBit, hbyte, hv, Option.map_some, hbit]

/-- The header on a carrier of a framed message is that of MSGLEN (R166, R193). -/
theorem State.carrierHeader_of_framedBits {s d : State}
    (h : ∀ k < framedBits s.len, d.carrierBit k = s.framedBit k) :
    d.carrierHeader = some (splitToBytes s.msglen.val) := by
  have hbyte (j : Nat) (hj : j < 4) : d.carrierByte j = some (headerByte (splitToBytes s.msglen.val) j) :=
    State.carrierByte_eq_framedByte (by unfold framedBits; omega) h (if_pos hj)
  exact (d.carrierHeader_eq_some_iff _).mpr ⟨hbyte 0 (by omega), hbyte 1 (by omega), hbyte 2 (by omega), hbyte 3 (by omega)⟩

/-- The bytes after the header are those of the message (R166, R196). -/
theorem State.carrierByte_of_framedBits {s d : State} (h : ∀ k < framedBits s.len, d.carrierBit k = s.framedBit k)
    {j : Nat} (hj : j < s.len) (hheld : s.msgByte j ≠ none) : d.carrierByte (4 + j) = s.msgByte j := by
  obtain ⟨v, hv⟩ := Option.ne_none_iff_exists'.mp hheld
  have hframed : s.framedByte (4 + j) = some v := by
    rw [State.framedByte, if_neg (by omega), Nat.add_sub_cancel_left, hv]
  rw [hv]
  exact State.carrierByte_eq_framedByte (by unfold framedBits; omega) h hframed

/-- An ENC that is done leaves its operands readable (R231) in a grid with room for the framed message (R179). -/
theorem execEnc_done_operands {s t : State} (h : execEnc s = .next t) (hdone : t.status = .done) :
    s.gridHeld = true ∧ framedBits s.len + 32 ≤ s.carriers ∧ (∀ j < s.len, s.msgByte j ≠ none) ∧
      t.len = s.len ∧ t.encReadable := by
  obtain ⟨held, ⟨-, rfl⟩ | ⟨hadm, hpix, r, hr, rfl⟩⟩ := execEnc_cases h
  · cases hdone
  · obtain ⟨hgrid, -⟩ := s.encHeld_iff.mp held
    have hmsg (j : Nat) (hj : j < s.len) : s.msgByte j ≠ none := State.msgByte_ne_none_of_embed hr hj
    have hlen : r.encoded.len = s.len := by rw [State.embed_frame hr]; rfl
    exact ⟨hgrid, State.framedBits_add_le_carriers hadm, hmsg, hlen, State.encReadable_encoded.mpr
      (State.encReadable_of_embed hr ⟨(s.carriersHeld_iff _).mp hpix, hmsg⟩)⟩

/-- Settles O31: the carrier bits are the framed bits, so DEC assembles the header of MSGLEN and then the message. -/
theorem decodeAfterEncodeReturnsTheMessage : Obligations.DecodeAfterEncodeReturnsTheMessage := by
  intro s t d h hdone hp hw hh
  obtain ⟨held, hroom, hmsg, hlen, hread, -⟩ := execEnc_done_operands h hdone
  have hframe := execEnc_frame h
  have hwidth : s.width = d.width := (hw.trans hframe.width).symm
  have hheight : s.height = d.height := (hh.trans hframe.height).symm
  have hbits (k : Nat) (hk : k < framedBits s.len) : d.carrierBit k = s.framedBit k := by
    obtain ⟨b, hb, hcar⟩ := carrierBit_of_execEnc_done h hdone hk
    rw [State.carrierBit_of_same_carrier hp hw hh, hcar, hb]
  have hnumber : (combineToInt (splitToBytes s.msglen.val)).toNat = s.len :=
    congrArg BitVec.toNat (combineToInt_splitToBytes _)
  obtain ⟨u, hrun, hdone', herr, hmsglen, hbytes, -⟩ := decCompletes d (splitToBytes s.msglen.val)
    ((State.gridHeld_congr hwidth hheight).trans held)
    (d.holdsHeader_iff.mpr (by rw [State.carriers_congr hwidth hheight]; omega))
    (State.carrierHeader_of_framedBits hbits)
    ((d.holdsFramed_iff _).mpr (by rw [hnumber, State.carriers_congr hwidth hheight]; omega))
    (fun k hk => by
      rw [State.carrier_of_same_carrier hp hw hh]
      exact hread k (by rwa [hlen, ← hnumber]))
  rw [combineToInt_splitToBytes] at hmsglen
  rw [hnumber] at hbytes
  refine ⟨u, hrun, hdone', herr, hmsglen, fun j hj => ?_⟩
  obtain ⟨hbyte, hheld⟩ := hbytes j hj
  exact ⟨hbyte.trans (State.carrierByte_of_framedBits hbits hj (hmsg j hj)), hheld⟩

end Sys2Proof.Machine

/-! SUPPORT. A DEC run on its own result: the carrier is unchanged, and a message byte stored where it stands changes
nothing (R204). -/

namespace Sys2Proof.Machine

/-- The loop of DEC changes nothing where the message is in MSG already. -/
theorem State.extract_of_inPlace {s : State} {n : Nat} (hw : Memory.wf s.msg = true)
    (h : ∀ j < n, s.msgByte j = s.carrierByte (4 + j) ∧ s.msgByte j ≠ none) : s.extract n = some s := by
  induction n with
  | zero => rfl
  | succ n ih =>
    obtain ⟨hsame, hheld⟩ := h n (Nat.lt_succ_self n)
    obtain ⟨v, hv⟩ := Option.ne_none_iff_exists'.mp hheld
    simp only [State.extract, ih fun j hj => h j (Nat.lt_succ_of_lt hj), ← hsame, hv]
    exact congrArg (fun msg => some { s with msg := msg }) (Memory.write_same _ _ _ hw hv)

/-- Completion does not depend on the earlier STATUS, ERR, MSGLEN, cursors, HDR or RBYTE (R220, R222). -/
theorem State.decoded_decoded (s : State) (h : Header) (r : Byte) : (s.decoded h r).decoded h r = s.decoded h r := rfl

/-- What a DEC that answers leaves unchanged, in every outcome (R190, R204). -/
theorem execDec_keeps {s t : State} (h : execDec s = .next t) :
    t.pix = s.pix ∧ t.width = s.width ∧ t.height = s.height ∧ t.capacity = s.capacity ∧ t.eos = s.eos ∧
      t.script = s.script ∧ t.reply = s.reply := by
  obtain ⟨-, ⟨-, rfl⟩ | ⟨-, -, hd, -, ⟨-, rfl⟩ | ⟨-, -, r, b, hr, -, rfl⟩⟩⟩ := execDec_cases h
  · exact ⟨rfl, rfl, rfl, rfl, rfl, rfl, rfl⟩
  · exact ⟨rfl, rfl, rfl, rfl, rfl, rfl, rfl⟩
  · rw [State.extract_frame hr]
    exact ⟨rfl, rfl, rfl, rfl, rfl, rfl, rfl⟩

/-- A DEC that is done draws no free value and leaves the bytes of MSG beyond its length (R197, R204). -/
theorem execDec_done_keeps {s t : State} (h : execDec s = .next t) (hdone : t.status = .done) :
    t.draws = s.draws ∧ ∀ j, t.len ≤ j → t.msgByte j = s.msgByte j := by
  obtain ⟨-, ⟨-, rfl⟩ | ⟨-, -, hd, -, ⟨-, rfl⟩ | ⟨-, -, r, b, hr, -, rfl⟩⟩⟩ := execDec_cases h
  · cases hdone
  · cases hdone
  · have hdraws : r.draws = s.draws := by rw [State.extract_frame hr]
    exact ⟨hdraws, ((s.extract_spec _).2 r hr).2⟩

/-- A DEC that is done, run again, finds every message byte in place (R204). -/
theorem execDec_done_again {s t : State} (hw : Memory.wf s.msg = true) (h : execDec s = .next t)
    (hdone : t.status = .done) : execDec t = .next t := by
  obtain ⟨hpix, hwidth, hheight, -⟩ := execDec_keeps h
  obtain ⟨held, ⟨-, rfl⟩ | ⟨hroom, -, hd, hhd, ⟨-, rfl⟩ | ⟨hfits, hheld, r, b, hr, hb, rfl⟩⟩⟩ := execDec_cases h
  · cases hdone
  · cases hdone
  · obtain ⟨hbytes, -⟩ := (s.extract_spec _).2 r hr
    have hcarrier := State.carrierByte_of_same_carrier hpix hwidth hheight
    have hwf : Memory.wf r.msg = true := State.extract_wf hw hr
    have hextract : (r.decoded hd b).extract (combineToInt hd).toNat = some (r.decoded hd b) :=
      State.extract_of_inPlace hwf fun j hj => by
        rw [hcarrier]
        exact hbytes j hj
    have hrun := execDec_next (hd := hd) ((State.gridHeld_congr hwidth.symm hheight.symm).trans held)
      ((State.holdsHeader_congr hwidth.symm hheight.symm).trans hroom)
      ((State.carrierHeader_of_same_carrier hpix hwidth hheight).trans hhd)
      ((State.holdsFramed_congr hwidth.symm hheight.symm _).trans hfits)
      ((State.carriersHeld_of_same_carrier hpix hwidth hheight _).trans hheld) hextract ((hcarrier _).trans hb)
    exact hrun.trans (congrArg _ (r.decoded_decoded hd b))

/-- A DEC that failed, run again, fails at the same check (R204). -/
theorem execDec_fails_again {s t : State} (h : execDec s = .next t) (hnot : t.status ≠ .done) :
    ∃ u, execDec t = .next u ∧ u.status = t.status ∧ u.err = t.err ∧ u.pix = t.pix := by
  obtain ⟨hpix, hwidth, hheight, -⟩ := execDec_keeps h
  obtain ⟨held, hcases⟩ := execDec_cases h
  have held' : t.gridHeld = true := (State.gridHeld_congr hwidth.symm hheight.symm).trans held
  have hheader := State.holdsHeader_congr hwidth.symm hheight.symm
  obtain ⟨hroom, rfl⟩ | ⟨hroom, hheld, hd, hhd, ⟨hlong, rfl⟩ | ⟨-, -, r, b, -, -, rfl⟩⟩ := hcases
  · exact ⟨_, execDec_of_no_header held' (hheader.trans hroom), rfl, rfl, rfl⟩
  · exact ⟨_, execDec_of_too_long held' (hheader.trans hroom)
      ((State.carrierHeader_of_same_carrier hpix hwidth hheight).trans hhd)
      ((State.carriersHeld_of_same_carrier hpix hwidth hheight _).trans hheld)
      ((State.holdsFramed_congr hwidth.symm hheight.symm _).trans hlong), rfl, rfl, rfl⟩
  · exact absurd rfl hnot

/-- Settles O29: DEC leaves the carrier, so a second one comes to the same check or finds the message in place. -/
theorem decFrame : Obligations.DecFrame := by
  intro s t h
  obtain ⟨hpix, hwidth, hheight, hcapacity, heos, hscript, hreply⟩ := execDec_keeps h
  exact ⟨hpix, hwidth, hheight, hcapacity, heos, hscript, hreply, execDec_done_keeps h,
    fun hw hdone => execDec_done_again hw h hdone, execDec_fails_again h⟩

end Sys2Proof.Machine

/-! SUPPORT. The micro-steps of DEC byte by byte: eight of them assemble one carrier byte, the first four bytes fill HDR, and
the bytes after them go into MSG as the loop of DEC stores them (R198, R201, R208). -/

namespace Sys2Proof.Machine

/-- One run of micro-steps after another. -/
theorem microRun_add {s t : State} {m : Nat} (h : microRun s m = .next t) (n : Nat) :
    microRun s (m + n) = microRun t n := by
  induction m generalizing s with
  | zero =>
    cases h
    rw [Nat.zero_add]
  | succ m ih =>
    rw [Nat.add_right_comm]
    rw [microRun] at h ⊢
    cases hstep : microStep s with
    | next r =>
      rw [hstep] at h
      exact ih h
    | fault f => simp [hstep] at h
    | refused f => simp [hstep] at h

theorem microRun_one (s : State) : microRun s 1 = microStep s := by
  rw [microRun]
  cases microStep s <;> rfl

/-! ### One carrier byte -/

/-- A running DEC at bit k with RBYTE `r`; `s` is the state with what the bytes before have left (R42, R43). -/
def State.decAt (s : State) (k : Nat) (r : Byte) : State :=
  { s.atBit k with rbyte := r }

/-- The state is that of a running DEC, which has not come to its end at byte j (R201). -/
def State.Decoding (s : State) (j : Nat) : Prop :=
  s.phase = .decHdr ∨ s.phase = .decPay ∧ j < 4 + s.len

/-- In a running DEC the engine's turn is the micro-step of DEC (R35, R201). -/
theorem microStep_decAt {s : State} (hp : s.phase = .decHdr ∨ s.phase = .decPay) (k : Nat) (r : Byte) :
    microStep (s.decAt k r) = decMicroStep (s.decAt k r) := by
  have halpha : (s.decAt k r).ch ≠ 3 := ofNat_carrierPlace_c_ne s.h k
  have hphase : (s.decAt k r).phase = s.phase := rfl
  rw [microStep, if_neg halpha, hphase]
  obtain hp | hp := hp <;> rw [hp]

theorem State.Decoding.phase {s : State} {j : Nat} (h : s.Decoding j) : s.phase = .decHdr ∨ s.phase = .decPay :=
  h.imp_right And.left

/-- The advance of a running DEC (R201). -/
theorem State.advance_decAt {s : State} {k : Nat} (hk : k < s.carriers) (r : Byte) :
    (s.decAt k r).advance = s.decAt (k + 1) r :=
  congrArg (fun u : State => { u with rbyte := r }) (State.advance_atBit hk)

/-- The micro-step at bit k puts carrier bit k into RBYTE; after the eighth bit the byte is complete (R198, R201). -/
theorem microStep_of_carrierBit {s : State} {k : Nat} {b : Bit} (hdec : s.Decoding (k / 8)) (hk : k < s.carriers)
    (hb : s.carrierBit k = some b) (r : Byte) :
    microStep (s.decAt k r) =
      if k % 8 = 7 then byteAssembled (s.decAt (k + 1) (setBit r (BitVec.ofNat 3 (k % 8)) b)) (k / 8)
      else .next (s.decAt (k + 1) (setBit r (BitVec.ofNat 3 (k % 8)) b)) := by
  obtain ⟨v, hv, rfl⟩ := Option.map_eq_some_iff.mp hb
  obtain ⟨hin, -⟩ := State.carrier_inGrid hv
  obtain ⟨hx, hy, hc, hbyte⟩ : (s.decAt k r).cx.toNat = _ ∧ (s.decAt k r).cy.toNat = _ ∧
    (s.decAt k r).ch.toNat = _ ∧ (s.decAt k r).byteIdx.toNat = k / 8 := State.atBit_toNat hk
  have hgo : ¬ ((s.decAt k r).phase = .decPay ∧ (s.decAt k r).byteIdx.toNat = (s.decAt k r).len + 4) := by
    rintro ⟨hpay, hend⟩
    obtain hhdr | ⟨-, hlt⟩ := hdec
    · exact absurd (hhdr.symm.trans hpay) (by decide)
    · rw [hbyte, show (s.decAt k r).len = s.len from rfl] at hend
      omega
  have hgrid : (s.decAt k r).inGrid (s.decAt k r).cx.toNat (s.decAt k r).cy.toNat = true := by
    rw [hx, hy]
    exact hin
  have hpix : (s.decAt k r).pixByte (s.decAt k r).cx.toNat (s.decAt k r).cy.toNat (s.decAt k r).ch.toNat = some v := by
    rw [hx, hy, hc]
    exact hv
  have hlast : (s.decAt k r).bitIdx = 7 ↔ k % 8 = 7 := by
    show BitVec.ofNat 3 (k % 8) = 7 ↔ _
    bv_omega
  rw [microStep_decAt hdec.phase, decMicroStep, if_neg hgo, hgrid, if_neg (by decide), hpix, hbyte,
    State.advance_decAt hk]
  simp only [hlast]
  rfl

/-- n < 8 micro-steps after the first bit of a byte RBYTE has its first n bits (R201). -/
theorem microRun_bits {s : State} {j : Nat} {v : Byte} (hdec : s.Decoding j) (hroom : 8 * j + 8 ≤ s.carriers)
    (hv : s.carrierByte j = some v) (r : Byte) {n : Nat} (hn : n < 8) :
    ∃ r', microRun (s.decAt (8 * j) r) n = .next (s.decAt (8 * j + n) r') ∧
      ∀ i : BitIdx, i.toNat < n → getBit r' i = getBit v i := by
  induction n with
  | zero => exact ⟨r, rfl, fun i hi => absurd hi (Nat.not_lt_zero _)⟩
  | succ n ih =>
    obtain ⟨r', hrun, hbits⟩ := ih (by omega)
    have hbyte : (8 * j + n) / 8 = j := by omega
    have hindex : (8 * j + n) % 8 = n := by omega
    have htoNat : (BitVec.ofNat 3 n).toNat = n := by rw [BitVec.toNat_ofNat]; omega
    have hb := (s.carrierByte_eq_some_iff j v).mp hv (BitVec.ofNat 3 n)
    rw [htoNat] at hb
    have hstep := microStep_of_carrierBit (hbyte.symm ▸ hdec) (by omega) hb r'
    rw [hindex, if_neg (by omega)] at hstep
    refine ⟨_, microRun_succ hrun hstep, fun i hi => ?_⟩
    rw [getBit_setBit]
    split
    · rename_i hnew
      rw [hnew]
    · exact hbits i (by bv_omega)

/-- Eight micro-steps assemble a carrier byte in RBYTE, whatever RBYTE held before (R198, R201). -/
theorem microRun_byte {s : State} {j : Nat} {v : Byte} (hdec : s.Decoding j) (hroom : 8 * j + 8 ≤ s.carriers)
    (hv : s.carrierByte j = some v) (r : Byte) :
    microRun (s.decAt (8 * j) r) 8 = byteAssembled (s.decAt (8 * (j + 1)) v) j := by
  obtain ⟨r', hrun, hbits⟩ := microRun_bits hdec hroom hv r (n := 7) (by decide)
  have hbyte : (8 * j + 7) / 8 = j := by omega
  have hindex : (8 * j + 7) % 8 = 7 := by omega
  have hb : s.carrierBit (8 * j + 7) = some (getBit v 7) := (s.carrierByte_eq_some_iff j v).mp hv 7
  have hstep := microStep_of_carrierBit (hbyte.symm ▸ hdec) (by omega) hb r'
  have hwhole : setBit r' 7 (getBit v 7) = v := eq_of_getBit_eq fun i => by
    rw [getBit_setBit]
    split
    · rename_i hlast
      rw [hlast]
    · exact hbits i (by bv_omega)
  rw [hindex, if_pos rfl, hbyte, show BitVec.ofNat 3 7 = 7 from rfl, hwhole] at hstep
  exact (microRun_add hrun 1).trans ((microRun_one _).trans hstep)

/-! ### The header -/

theorem headerByte_setHeaderByte (h : Header) {i j : Nat} (hi : i < 4) (hj : j < 4) (v : Byte) :
    headerByte (setHeaderByte h j v) i = if i = j then v else headerByte h i := by
  interval_cases j <;> interval_cases i <;> rfl

/-- A DEC reading the header, which has put `g` into HDR (R201). -/
def State.readingHeader (s : State) (g : Header) : State :=
  { s.begin with phase := .decHdr, hdr := g }

theorem State.start_decHdr (s : State) : s.begin.start .decHdr = (s.readingHeader s.hdr).decAt 0 s.rbyte := rfl

/-- The fields of a DEC that reads the payload of a message with header `hd` (R201). -/
def State.readingPayload (s : State) (hd : Header) : State :=
  { s.begin with phase := .decPay, hdr := hd, msglen := { val := combineToInt hd, held := true } }

/-- A byte of the header goes into HDR, and the first three are followed by nothing else (R201). -/
theorem byteAssembled_header {s : State} {g : Header} {j : Nat} (hj : j < 3) (k : Nat) (v : Byte) :
    byteAssembled ((s.readingHeader g).decAt k v) j = .next ((s.readingHeader (setHeaderByte g j v)).decAt k v) := by
  rw [byteAssembled, if_pos (by rfl), if_neg (by omega)]
  rfl

/-- After j < 4 bytes HDR holds the first j bytes of the header (R201). -/
theorem microRun_headerBytes {s : State} {hd : Header} (hroom : 32 ≤ s.carriers) (hhd : s.carrierHeader = some hd)
    {j : Nat} (hj : j < 4) :
    ∃ g r, microRun (s.begin.start .decHdr) (8 * j) = .next ((s.readingHeader g).decAt (8 * j) r) ∧
      ∀ i < j, headerByte g i = headerByte hd i := by
  induction j with
  | zero => exact ⟨s.hdr, s.rbyte, rfl, fun i hi => absurd hi (Nat.not_lt_zero _)⟩
  | succ j ih =>
    obtain ⟨g, r, hrun, hbytes⟩ := ih (by omega)
    have hbyte : (s.readingHeader g).carrierByte j = some (headerByte hd j) :=
      (State.carrierByte_of_same_carrier rfl rfl rfl j).trans (State.carrierByte_of_carrierHeader hhd (by omega))
    have hcar : (s.readingHeader g).carriers = s.carriers := rfl
    have hstep := (microRun_byte (.inl rfl) (by omega) hbyte r).trans (byteAssembled_header (by omega) _ _)
    refine ⟨_, _, (microRun_add hrun 8).trans hstep, fun i hi => ?_⟩
    rw [headerByte_setHeaderByte g (by omega) (by omega)]
    split
    · rename_i hnew
      rw [hnew]
    · exact hbytes i (by omega)

/-- The fourth byte completes the header, and the bound check follows it (R195, R201). -/
theorem byteAssembled_last_header {s : State} {g hd : Header} (hset : setHeaderByte g 3 hd.b3 = hd) :
    byteAssembled ((s.readingHeader g).decAt 32 hd.b3) 3 =
      if s.holdsFramed (combineToInt hd).toNat = false then .next (s.begin.decodedTo hd 0 hd.b3).failDecode
      else .next ((s.readingPayload hd).decAt 32 hd.b3) := by
  have hhdr : setHeaderByte ((s.readingHeader g).decAt 32 hd.b3).hdr 3 ((s.readingHeader g).decAt 32 hd.b3).rbyte = hd :=
    hset
  rw [byteAssembled, if_pos (by rfl)]
  simp only [hhdr, if_true, if_neg (msgbuf_ok _)]
  rfl

/-- 32 micro-steps after the launch the header is read and the bound check is made (R195, R201). -/
theorem microRun_header {s : State} {hd : Header} (hroom : 32 ≤ s.carriers) (hhd : s.carrierHeader = some hd) :
    microRun (s.begin.start .decHdr) 32 =
      if s.holdsFramed (combineToInt hd).toNat = false then .next (s.begin.decodedTo hd 0 hd.b3).failDecode
      else .next ((s.readingPayload hd).decAt 32 hd.b3) := by
  obtain ⟨g, r, hrun, hbytes⟩ := microRun_headerBytes hroom hhd (j := 3) (by decide)
  have hbyte : (s.readingHeader g).carrierByte 3 = some hd.b3 :=
    (State.carrierByte_of_same_carrier rfl rfl rfl 3).trans (State.carrierByte_of_carrierHeader hhd (j := 3) (by decide))
  have hset : setHeaderByte g 3 hd.b3 = hd := eq_of_headerByte_eq fun i hi => by
    rw [headerByte_setHeaderByte g hi (by decide)]
    split
    · rename_i hlast
      rw [hlast]
      rfl
    · exact hbytes i (by omega)
  exact (microRun_add hrun 8).trans ((microRun_byte (.inl rfl) hroom hbyte r).trans (byteAssembled_last_header hset))

/-! ### The payload -/

/-- A byte of the payload goes into MSG (R196, R201). -/
theorem byteAssembled_payload (s : State) (hd : Header) (n k : Nat) (v : Byte) :
    byteAssembled ((s.readingPayload hd).decAt k v) (4 + n) =
      .next (((s.msgStore n v).readingPayload hd).decAt k v) := by
  have hpay : ((s.readingPayload hd).decAt k v).phase ≠ .decHdr := Phase.noConfusion
  rw [byteAssembled, if_neg hpay, Nat.add_sub_cancel_left]
  rfl

/-- n payload bytes after the header the loop of DEC has stored n bytes, and RBYTE has the last one (R196, R201). -/
theorem microRun_payload {s r : State} {hd : Header} (hfits : framedBits (combineToInt hd).toNat ≤ s.carriers)
    {n : Nat} (hn : n ≤ (combineToInt hd).toNat) (hr : s.extract n = some r) {b : Byte} (hb : s.carrierByte 3 = some b) :
    ∃ b', s.carrierByte (3 + n) = some b' ∧
      microRun ((s.readingPayload hd).decAt 32 b) (8 * n) = .next ((r.readingPayload hd).decAt (framedBits n) b') := by
  induction n generalizing r with
  | zero =>
    cases hr
    exact ⟨b, hb, rfl⟩
  | succ n ih =>
    simp only [State.extract] at hr
    split at hr
    · rename_i q v hq hv
      cases hr
      obtain ⟨b', -, hrun⟩ := ih (by omega) hq
      have hf := State.extract_frame hq
      have hbyte : (q.readingPayload hd).carrierByte (4 + n) = some v := by
        rw [← hv, hf]
        exact State.carrierByte_of_same_carrier rfl rfl rfl (4 + n)
      have hcar : (q.readingPayload hd).carriers = s.carriers := by rw [hf]; rfl
      have hroom : 8 * (4 + n) + 8 ≤ (q.readingPayload hd).carriers := by
        unfold framedBits at hfits
        omega
      have hdec : (q.readingPayload hd).Decoding (4 + n) := .inr ⟨rfl, Nat.add_lt_add_left hn 4⟩
      refine ⟨v, by rw [← hv, Nat.add_left_comm, Nat.add_comm n], ?_⟩
      exact (microRun_add hrun 8).trans ((microRun_byte hdec hroom hbyte b').trans (byteAssembled_payload q hd n _ v))
    · cases hr

/-- After the last byte the micro-step completes DEC (R197, R201). -/
theorem microStep_readingPayload_last {s : State} {hd : Header}
    (hfits : framedBits (combineToInt hd).toNat ≤ s.carriers) (b : Byte) :
    microStep ((s.readingPayload hd).decAt (framedBits (combineToInt hd).toNat) b) = .next (s.decoded hd b) := by
  have hlt := s.carriers_lt
  have hend : ((s.readingPayload hd).decAt (framedBits (combineToInt hd).toNat) b).byteIdx.toNat =
      (combineToInt hd).toNat + 4 := by
    show (framedBits (combineToInt hd).toNat / 8) % 2 ^ 32 = _
    unfold framedBits at *
    omega
  rw [microStep_decAt (.inr rfl), decMicroStep, if_pos ⟨rfl, hend⟩]
  rfl

/-! ### Launch to completion -/

theorem launchDec_of_no_header {s t : State} (h : execDec s = .next t) (hroom : s.holdsHeader = false) :
    launchDec s = .next s.begin.failDecode := by
  simp [launchDec, h, hroom]

theorem launchDec_of_header {s t : State} (h : execDec s = .next t) (hroom : s.holdsHeader = true) :
    launchDec s = .next (s.begin.start .decHdr) := by
  simp [launchDec, h, hroom]

/-- The micro-steps of a DEC that is done: the header's, those of the loop, and the one that completes it (R201, R208). -/
theorem microRun_of_extract {s r : State} {hd : Header} {b : Byte} (hroom : s.holdsHeader = true)
    (hhd : s.carrierHeader = some hd) (hfits : s.holdsFramed (combineToInt hd).toNat = true)
    (hr : s.extract (combineToInt hd).toNat = some r) (hb : s.carrierByte (3 + (combineToInt hd).toNat) = some b) :
    microRun (s.begin.start .decHdr) (framedBits (combineToInt hd).toNat + 1) = .next (r.decoded hd b) := by
  have hbound := (s.holdsFramed_iff _).mp hfits
  have hheader := microRun_header (s.holdsHeader_iff.mp hroom) hhd
  rw [if_neg (by simp [hfits])] at hheader
  obtain ⟨b', hb', hpayload⟩ := microRun_payload hbound (Nat.le_refl _) hr
    (State.carrierByte_of_carrierHeader hhd (j := 3) (by decide))
  obtain rfl : b' = b := Option.some.inj (hb'.symm.trans hb)
  have hcar : r.carriers = s.carriers := by rw [State.extract_frame hr]; rfl
  have hlast := microStep_readingPayload_last (s := r) (hd := hd) (hcar ▸ hbound) b'
  rw [show framedBits (combineToInt hd).toNat = 32 + 8 * (combineToInt hd).toNat by unfold framedBits; omega]
  exact microRun_succ ((microRun_add hheader _).trans hpayload) hlast

/-- Settles O32: a failing header check ends either granularity at once; else 32 micro-steps read the header, and where the
bound check passes the further ones follow the loop to the completion. -/
theorem decMicroStepsReachTheTransition : Obligations.DecMicroStepsReachTheTransition := by
  intro s t h
  obtain ⟨-, ⟨hroom, rfl⟩ | ⟨hroom, -, hd, hhd, ⟨hlong, rfl⟩ | ⟨hfits, -, r, b, hr, hb, rfl⟩⟩⟩ := execDec_cases h
  · exact ⟨fun hdone => (nomatch hdone), fun _ hheader => absurd (hheader.symm.trans hroom) (by decide),
      fun _ _ => launchDec_of_no_header h hroom⟩
  · refine ⟨fun hdone => (nomatch hdone), fun _ _ => ⟨_, launchDec_of_header h hroom, rfl, ?_⟩,
      fun _ hnot => absurd (hroom.symm.trans hnot) (by decide)⟩
    exact (microRun_header (s.holdsHeader_iff.mp hroom) hhd).trans (if_pos hlong)
  · exact ⟨fun _ => ⟨_, launchDec_of_header h hroom, rfl, microRun_of_extract hroom hhd hfits hr hb⟩,
      fun hnot => absurd rfl hnot, fun hnot => absurd rfl hnot⟩

end Sys2Proof.Machine

/-! SUPPORT. The host's moves while STATUS is BUSY: what a read of STATUS answers, and that the other moves are refused (R226). -/

namespace Sys2Proof.Machine

/-- A read of STATUS is answered (R226). -/
theorem busyTurn_rd_status (s again : State) : busyTurn s again (.rd 1) = .next (readRegister s 1) := rfl

/-- A read of any other register is refused (R226). -/
theorem busyTurn_rd_other (s again : State) {n : Byte} (hn : n ≠ 1) :
    busyTurn s again (.rd n) = .refused .hostMoveWhileBusy := by
  have hstatus : registerOf n ≠ some .status := fun h => hn ((registerOf_eq_some_iff n .status).mp h)
  rw [busyTurn]
  split
  · contradiction
  · rfl

/-- Settles O37: a read of STATUS answers its code, and each other line of the host has its refusal. -/
theorem busyRefusesHostMoves : Obligations.BusyRefusesHostMoves := by
  intro s l rest busy line
  have hturn : step s = busyTurn (s.take rest) s l := step_of_busy_line busy line
  refine ⟨?_, fun hread hwait hidle hreset => ?_⟩
  · rintro rfl
    rw [hturn, busyTurn_rd_status]
    exact congrArg _ (State.answer_status_of_busy (s := s.take rest) busy)
  · rw [hturn]
    cases l with
    | rd n => exact busyTurn_rd_other _ _ fun hn => hread (congrArg _ hn)
    | wait => exact absurd rfl hwait
    | idle => exact absurd rfl hidle
    | reset => exact absurd rfl hreset
    | _ => rfl

/-- Settles O44: by the definition of `raise`. -/
theorem raiseRecordsTheErrorOnly : Obligations.RaiseRecordsTheErrorOnly := fun _ _ => rfl

end Sys2Proof.Machine

/-! SUPPORT. The loops of ENC and DEC from two states with the same operands: they answer at both or at neither, with the same
PIX and MSG (R225, R231). -/

namespace Sys2Proof.Machine

section
variable {s s' : State} (same : s.sameOperands s')
include same

theorem State.sameOperands.width_eq : s'.width = s.width := by
  obtain ⟨hwidth, -, -, -, -⟩ := same
  exact hwidth.symm

theorem State.sameOperands.height_eq : s'.height = s.height := by
  obtain ⟨-, hheight, -, -, -⟩ := same
  exact hheight.symm

theorem State.sameOperands.msglen_eq : s'.msglen = s.msglen := by
  obtain ⟨-, -, hmsglen, -, -⟩ := same
  exact hmsglen.symm

theorem State.sameOperands.pix_eq : s'.pix = s.pix := by
  obtain ⟨-, -, -, hpix, -⟩ := same
  exact hpix.symm

theorem State.sameOperands.msg_eq : s'.msg = s.msg := by
  obtain ⟨-, -, -, -, hmsg⟩ := same
  exact hmsg.symm

theorem State.sameOperands.gridHeld_eq : s'.gridHeld = s.gridHeld :=
  State.gridHeld_congr same.width_eq.symm same.height_eq.symm

theorem State.sameOperands.encHeld_eq : s'.encHeld = s.encHeld := by
  simp only [State.encHeld, same.gridHeld_eq, same.msglen_eq]

theorem State.sameOperands.len_eq : s'.len = s.len := by
  simp only [State.len, same.msglen_eq]

theorem State.sameOperands.maxEncodeSize_eq : maxEncodeSize s'.w s'.h = maxEncodeSize s.w s.h := by
  simp only [State.w, State.h, same.width_eq, same.height_eq]

theorem State.sameOperands.admits_eq : s'.admits = s.admits := by
  simp only [State.admits, same.len_eq, same.maxEncodeSize_eq]

theorem State.sameOperands.holdsHeader_eq : s'.holdsHeader = s.holdsHeader :=
  State.holdsHeader_congr same.width_eq.symm same.height_eq.symm

theorem State.sameOperands.holdsFramed_eq (n : Nat) : s'.holdsFramed n = s.holdsFramed n :=
  State.holdsFramed_congr same.width_eq.symm same.height_eq.symm n

theorem State.sameOperands.carrier_eq (k : Nat) : s'.carrier k = s.carrier k :=
  State.carrier_of_same_carrier same.pix_eq same.width_eq same.height_eq k

theorem State.sameOperands.carriersHeld_eq (n : Nat) : s'.carriersHeld n = s.carriersHeld n :=
  State.carriersHeld_of_same_carrier same.pix_eq same.width_eq same.height_eq n

theorem State.sameOperands.carrierByte_eq (j : Nat) : s'.carrierByte j = s.carrierByte j :=
  State.carrierByte_of_same_carrier same.pix_eq same.width_eq same.height_eq j

theorem State.sameOperands.carrierHeader_eq : s'.carrierHeader = s.carrierHeader :=
  State.carrierHeader_of_same_carrier same.pix_eq same.width_eq same.height_eq

theorem State.sameOperands.framedBit_eq (k : Nat) : s'.framedBit k = s.framedBit k :=
  State.framedBit_congr same.msglen_eq same.msg_eq k

theorem State.sameOperands.encReadable_iff : s'.encReadable ↔ s.encReadable := by
  simp only [State.encReadable, State.msgByte, same.len_eq, same.carrier_eq, same.msg_eq]

/-- A bit goes into the same channel byte of the same PIX (R173). -/
theorem State.sameOperands.embedBit_eq (k : Nat) :
    s'.embedBit k = (s.embedBit k).map fun r => { s' with pix := r.pix } := by
  have hheight : s'.h = s.h := congrArg (·.val.toNat) same.height_eq
  rw [State.embedBit, State.embedBit, same.carrier_eq, same.framedBit_eq]
  cases s.carrier k <;> cases s.framedBit k <;> simp [State.pixStore, same.pix_eq, hheight]

/-- The loop of ENC keeps the operands the same. -/
theorem State.sameOperands.of_embed {r : State} {n : Nat} (h : s.embed n = some r) :
    r.sameOperands { s' with pix := r.pix } := by
  rw [State.embed_frame h]
  exact ⟨same.width_eq.symm, same.height_eq.symm, same.msglen_eq.symm, rfl, same.msg_eq.symm⟩

theorem State.sameOperands.embed_eq (n : Nat) :
    s'.embed n = (s.embed n).map fun r => { s' with pix := r.pix } := by
  induction n with
  | zero => exact congrArg (fun pix => some { s' with pix := pix }) same.pix_eq
  | succ n ih =>
    rw [State.embed, State.embed, ih]
    cases hr : s.embed n with
    | none => rfl
    | some r => exact (same.of_embed hr).embedBit_eq n

/-- DEC stores the same bytes into the same MSG (R196). -/
theorem State.sameOperands.extract_eq (n : Nat) :
    s'.extract n = (s.extract n).map fun r => { s' with msg := r.msg } := by
  induction n with
  | zero => exact congrArg (fun msg => some { s' with msg := msg }) same.msg_eq
  | succ n ih =>
    rw [State.extract, State.extract, ih, same.carrierByte_eq]
    cases s.extract n <;> cases s.carrierByte (4 + n) <;> rfl

end

end Sys2Proof.Machine

/-! SUPPORT. What the commands do not depend on: the STATUS and ERR that the launch writes over (R220 step 2), and all that is
no operand (R225). -/

namespace Sys2Proof.Machine

theorem State.sameOperands_begin (s : State) : s.sameOperands s.begin := ⟨rfl, rfl, rfl, rfl, rfl⟩

/-- The loop of ENC from the state with the launch's STATUS and ERR completes to the same registers (R222). -/
theorem State.encoded_of_begin {s r : State} {n : Nat} (h : s.embed n = some r) :
    State.encoded { s.begin with pix := r.pix } = r.encoded := by
  rw [State.embed_frame h]
  rfl

theorem State.decoded_of_begin {s r : State} {n : Nat} (h : s.extract n = some r) (hd : Header) (b : Byte) :
    State.decoded { s.begin with msg := r.msg } hd b = r.decoded hd b := by
  rw [State.extract_frame h]
  rfl

theorem execEnc_begin (s : State) : execEnc s.begin = execEnc s := by
  have same := s.sameOperands_begin
  simp only [execEnc, same.encHeld_eq, same.len_eq, same.admits_eq, same.carriersHeld_eq, same.embed_eq]
  cases hr : s.embed (framedBits s.len) with
  | none => rfl
  | some r => simp only [Option.map_some, State.encoded_of_begin hr]; rfl

theorem execDec_begin (s : State) : execDec s.begin = execDec s := by
  have same := s.sameOperands_begin
  simp only [execDec, same.gridHeld_eq, same.holdsHeader_eq, same.holdsFramed_eq, same.carriersHeld_eq,
    same.carrierHeader_eq, same.carrierByte_eq, same.extract_eq]
  cases s.carrierHeader with
  | none => rfl
  | some hd =>
    cases hr : s.extract (combineToInt hd).toNat with
    | none => simp only [hr]; rfl
    | some r =>
      cases hb : s.carrierByte (3 + (combineToInt hd).toNat) with
      | none => simp only [hr, hb]; rfl
      | some b => simp only [hr, hb, Option.map_some, State.decoded_of_begin hr]; rfl

/-- A launch writes STATUS and ERR before the command takes anything (R220 step 2, R249). -/
theorem exec_begin (i : Instr) (s : State) : exec i s.begin = exec i s := by
  cases i with
  | cap => rfl
  | enc => exact execEnc_begin s
  | dec => exact execDec_begin s

/-- Settles O34: the launch leaves the same state whatever STATUS and ERR were. -/
theorem commandsIgnoreTheEarlierResult : Obligations.CommandsIgnoreTheEarlierResult := by
  intro i s st e
  calc exec i { s with status := st, err := e } = exec i s.begin := (exec_begin i { s with status := st, err := e }).symm
    _ = exec i s := exec_begin i s

section
variable {s s' t : State} (same : s.sameOperands s')
include same

/-- CAP depends on the dimensions alone (R132, R225). -/
theorem execCap_of_sameOperands (h : execCap s = .next t) :
    ∃ t', execCap s' = .next t' ∧ t'.status = t.status ∧ t'.err = t.err ∧ t.sameOperands t' ∧
      t'.capacity = t.capacity := by
  obtain ⟨held, rfl⟩ := execCap_cases h
  have hcapacity := congrArg (fun n => ({ val := BitVec.ofNat 32 n, held := true } : Reg 32)) same.maxEncodeSize_eq
  exact ⟨_, execCap_of_held (same.gridHeld_eq.trans held), rfl, rfl, same, hcapacity⟩

/-- ENC comes to the same check, or its loop writes the same bits (R177, R225). -/
theorem execEnc_of_sameOperands (h : execEnc s = .next t) :
    ∃ t', execEnc s' = .next t' ∧ t'.status = t.status ∧ t'.err = t.err ∧ t.sameOperands t' := by
  obtain ⟨held, ⟨hadm, rfl⟩ | ⟨hadm, hpix, r, hr, rfl⟩⟩ := execEnc_cases h
  · exact ⟨_, execEnc_of_not_admitted (same.encHeld_eq.trans held) (same.admits_eq.trans hadm), rfl, rfl, same⟩
  · have hread : s.encReadable :=
      ⟨(s.carriersHeld_iff _).mp hpix, fun j hj => State.msgByte_ne_none_of_embed hr hj⟩
    obtain ⟨r', hr', hrun⟩ := execEnc_next (same.encHeld_eq.trans held) (same.admits_eq.trans hadm)
      (same.encReadable_iff.mpr hread)
    rw [same.len_eq, same.embed_eq, hr] at hr'
    cases hr'
    have hsame := same.of_embed hr
    exact ⟨_, hrun, rfl, rfl, hsame⟩

/-- DEC comes to the same check, or its loop stores the same bytes; MSGLEN and MSG after a failed DEC are free (R203). -/
theorem execDec_of_sameOperands (h : execDec s = .next t) :
    ∃ t', execDec s' = .next t' ∧ t'.status = t.status ∧ t'.err = t.err ∧
      (t.status ≠ .fail → t'.msglen = t.msglen ∧ t'.msg = t.msg) := by
  obtain ⟨held, hcases⟩ := execDec_cases h
  have held' := same.gridHeld_eq.trans held
  obtain ⟨hroom, rfl⟩ | ⟨hroom, hhdr, hd, hhd, hcases⟩ := hcases
  · exact ⟨_, execDec_of_no_header held' (same.holdsHeader_eq.trans hroom), rfl, rfl, fun hnot => absurd rfl hnot⟩
  have hroom' := same.holdsHeader_eq.trans hroom
  have hhd' := same.carrierHeader_eq.trans hhd
  obtain ⟨hlong, rfl⟩ | ⟨hfits, hmsg, r, b, hr, hb, rfl⟩ := hcases
  · exact ⟨_, execDec_of_too_long held' hroom' hhd' ((same.carriersHeld_eq _).trans hhdr)
      ((same.holdsFramed_eq _).trans hlong), rfl, rfl, fun hnot => absurd rfl hnot⟩
  · have hextract := (same.extract_eq (combineToInt hd).toNat).trans (congrArg _ hr)
    exact ⟨_, execDec_next held' hroom' hhd' ((same.holdsFramed_eq _).trans hfits)
      ((same.carriersHeld_eq _).trans hmsg) hextract ((same.carrierByte_eq _).trans hb), rfl, rfl, fun _ => ⟨rfl, rfl⟩⟩

end

/-- Settles O35: each command takes the same branch at both states, and its loop writes the same bytes. -/
theorem operandsDetermineTheResult : Obligations.OperandsDetermineTheResult := by
  intro i s s' t same h
  cases i with
  | cap =>
    obtain ⟨t', hrun, hstatus, herr, hsame, hcapacity⟩ := execCap_of_sameOperands same h
    exact ⟨t', hrun, hstatus, herr, hsame.pix_eq, hsame.width_eq, hsame.height_eq,
      fun _ => ⟨hsame.msglen_eq, hsame.msg_eq⟩, fun _ => hcapacity⟩
  | enc =>
    obtain ⟨t', hrun, hstatus, herr, hsame⟩ := execEnc_of_sameOperands same h
    exact ⟨t', hrun, hstatus, herr, hsame.pix_eq, hsame.width_eq, hsame.height_eq,
      fun _ => ⟨hsame.msglen_eq, hsame.msg_eq⟩, nofun⟩
  | dec =>
    obtain ⟨t', hrun, hstatus, herr, hmessage⟩ := execDec_of_sameOperands same h
    obtain ⟨hpix, hwidth, hheight, -⟩ := execDec_keeps h
    obtain ⟨hpix', hwidth', hheight', -⟩ := execDec_keeps hrun
    exact ⟨t', hrun, hstatus, herr, hpix'.trans (same.pix_eq.trans hpix.symm),
      hwidth'.trans (same.width_eq.trans hwidth.symm), hheight'.trans (same.height_eq.trans hheight.symm),
      fun hnot => hmessage fun hfail => hnot ⟨rfl, hfail⟩, nofun⟩

end Sys2Proof.Machine

/-! SUPPORT. Every command completes: the state it comes to is at rest, and the micro-steps reach it within the carrier bits of
the grid (R222). -/

namespace Sys2Proof.Machine

/-- A command that answers has completed or failed (R222, R246). -/
theorem exec_atRest {i : Instr} {s t : State} (h : exec i s = .next t) : t.AtRest := by
  cases i with
  | cap =>
    obtain ⟨-, rfl⟩ := execCap_cases h
    exact ⟨rfl, Status.noConfusion, iff_of_true rfl Status.noConfusion⟩
  | enc =>
    obtain ⟨-, ⟨-, rfl⟩ | ⟨-, -, r, -, rfl⟩⟩ := execEnc_cases h
    · exact s.begin.raise_atRest ErrCode.noConfusion
    · exact ⟨rfl, Status.noConfusion, iff_of_true rfl Status.noConfusion⟩
  | dec =>
    obtain ⟨-, ⟨-, rfl⟩ | ⟨-, -, hd, -, ⟨-, rfl⟩ | ⟨-, -, r, b, -, -, rfl⟩⟩⟩ := execDec_cases h
    · exact State.failDecode_atRest _
    · exact State.failDecode_atRest _
    · exact ⟨rfl, Status.noConfusion, iff_of_true rfl Status.noConfusion⟩

/-- At most m micro-steps from `u` complete its command. -/
def State.CompletesWithin (u : State) (m : Nat) : Prop :=
  ∃ n t, n ≤ m ∧ microRun u n = .next t ∧ t.status ≠ .busy ∧ t.phase = .idle

theorem State.AtRest.completesWithin {t : State} (h : t.AtRest) (m : Nat) : t.CompletesWithin m :=
  ⟨0, t, Nat.zero_le m, rfl, h.status, h.phase⟩

theorem State.AtRest.completesWithin_of_microRun {u t : State} {n m : Nat} (h : t.AtRest) (hle : n ≤ m)
    (hrun : microRun u n = .next t) : u.CompletesWithin m :=
  ⟨n, t, hle, hrun, h.status, h.phase⟩

/-- The framed bits of an admitted message and the test for the end of the stream (R178, R179). -/
theorem launchEnc_completesWithin {s u : State} (h : launchEnc s = .next u) : u.CompletesWithin (s.carriers + 1) := by
  obtain ⟨t, hrun, ⟨-, rfl⟩ | ⟨hadm, -⟩⟩ := launchEnc_cases h
  · exact (s.begin.raise_atRest ErrCode.noConfusion).completesWithin _
  · obtain ⟨hdone, -⟩ := execEnc_done_of_admits hadm hrun
    obtain ⟨hmicro, -⟩ := encMicroStepsReachTheTransition s t hrun
    obtain ⟨u', hu', -, hsteps⟩ := hmicro hdone
    cases hu'.symm.trans h
    exact (exec_atRest (i := .enc) hrun).completesWithin_of_microRun
      (Nat.succ_le_succ (State.framedBits_le_carriers hadm)) hsteps

/-- A DEC that is done announced a message that fits the grid (R195). -/
theorem execDec_done_fits {s t : State} (h : execDec s = .next t) (hdone : t.status = .done) :
    framedBits t.len ≤ s.carriers := by
  obtain ⟨hd, -, -, -, hfits, hmsglen, -⟩ := execDec_done h hdone
  rw [State.len, hmsglen]
  exact (s.holdsFramed_iff _).mp hfits

/-- The header's 32 bits, or the framed bits and the test for the end of the message (R201). -/
theorem launchDec_completesWithin {s u : State} (h : launchDec s = .next u) : u.CompletesWithin (s.carriers + 1) := by
  obtain ⟨t, hrun, ⟨-, rfl⟩ | ⟨hroom, -⟩⟩ := launchDec_cases h
  · exact s.begin.failDecode_atRest.completesWithin _
  · have hrest : t.AtRest := exec_atRest (i := .dec) hrun
    obtain ⟨hmicro, hmicroFail, -⟩ := decMicroStepsReachTheTransition s t hrun
    by_cases hdone : t.status = .done
    · obtain ⟨u', hu', -, hsteps⟩ := hmicro hdone
      cases hu'.symm.trans h
      exact hrest.completesWithin_of_microRun (Nat.succ_le_succ (execDec_done_fits hrun hdone)) hsteps
    · obtain ⟨u', hu', -, hsteps⟩ := hmicroFail hdone hroom
      cases hu'.symm.trans h
      exact hrest.completesWithin_of_microRun (Nat.le_succ_of_le (s.holdsHeader_iff.mp hroom)) hsteps

/-- Settles O36: CAP completes in its launch; ENC and DEC reach their transition's state, which is at rest, in as many
micro-steps as they move bits and one more. -/
theorem everyCommandCompletes : Obligations.EveryCommandCompletes := by
  intro i s u h
  cases i with
  | cap => exact (exec_atRest (i := .cap) h).completesWithin _
  | enc => exact launchEnc_completesWithin h
  | dec => exact launchDec_completesWithin h

end Sys2Proof.Machine

/-! SUPPORT. The host's duties: with the dimensions held and the grid written no command is refused (R228, R272). -/

namespace Sys2Proof.Machine

/-- Every R, G and B byte of a written grid is a carrier byte that holds a value (R145, R272 (b)). -/
theorem State.carrier_ne_none_of_grid {s : State} (hgrid : ∀ x y c, x < s.w → y < s.h → c < 4 → s.pixByte x y c ≠ none)
    {k : Nat} (hk : k < s.carriers) : s.carrier k ≠ none := by
  obtain ⟨hx, hy, hc⟩ := carrierPlace_inGrid s.w s.h k hk
  exact hgrid _ _ _ hx hy (Nat.lt_succ_of_lt hc)

section
variable {s : State} (written : ∀ k < s.carriers, s.carrier k ≠ none)
include written

/-- The whole pixels of bits that fit a written grid hold values (R94). -/
theorem State.carriers_ne_none_of_fits {n : Nat} (hn : n ≤ s.carriers) : ∀ k < pixelBytes n, s.carrier k ≠ none :=
  fun k hk => written k (hk.trans_le (State.pixelBytes_le_carriers hn))

/-- On a written grid DEC fails a check or completes. -/
theorem execDec_answers (held : s.gridHeld = true) : ∃ t, execDec s = .next t := by
  cases hroom : s.holdsHeader with
  | false => exact ⟨_, execDec_of_no_header held hroom⟩
  | true =>
    have hhdr := State.carriers_ne_none_of_fits written (s.holdsHeader_iff.mp hroom)
    obtain ⟨hd, hhd⟩ := Option.ne_none_iff_exists'.mp (State.carrierHeader_ne_none hhdr)
    cases hfits : s.holdsFramed (combineToInt hd).toNat with
    | false => exact ⟨_, execDec_of_too_long held hroom hhd ((s.carriersHeld_iff _).mpr hhdr) hfits⟩
    | true =>
      obtain ⟨r, b, -, hrun⟩ := execDec_of_written held hroom hhd hfits
        (State.carriers_ne_none_of_fits written ((s.holdsFramed_iff _).mp hfits))
      exact ⟨_, hrun⟩

/-- On a written grid, with its message written, ENC fails its check or completes. -/
theorem execEnc_answers (held : s.encHeld = true) (hmsg : ∀ j < s.len, s.msgByte j ≠ none) :
    ∃ t, execEnc s = .next t := by
  cases hadm : s.admits with
  | false => exact ⟨_, execEnc_of_not_admitted held hadm⟩
  | true =>
    obtain ⟨r, -, hrun⟩ := execEnc_next held hadm
      ⟨State.carriers_ne_none_of_fits written (State.framedBits_le_carriers hadm), hmsg⟩
    exact ⟨_, hrun⟩

end

/-- Right after reset no operand register holds a value, so every launch is refused (R228, V79). -/
theorem exec_reset (i : Instr) : exec i State.reset = .refused .unwrittenRegister := by
  cases i with
  | cap => exact execCap_of_not_held rfl
  | enc => exact execEnc_of_not_held rfl
  | dec => exact execDec_of_not_held rfl

/-- Settles O53: no check of a command meets an operand without a value, and a command that answers is at rest. -/
theorem hostDutiesGiveEveryLaunchAResult : Obligations.HostDutiesGiveEveryLaunchAResult := by
  refine ⟨fun s held hgrid => ?_, exec_reset⟩
  have written (k : Nat) (hk : k < s.carriers) : s.carrier k ≠ none := State.carrier_ne_none_of_grid hgrid hk
  have hrest {i : Instr} : (∃ t, exec i s = .next t) → ∃ t, exec i s = .next t ∧ t.status ≠ .busy :=
    fun ⟨t, h⟩ => ⟨t, h, (exec_atRest h).status⟩
  exact ⟨hrest ⟨_, execCap_of_held held⟩, hrest (execDec_answers written held),
    fun hlen hmsg => hrest (execEnc_answers written (s.encHeld_iff.mpr ⟨held, hlen⟩) hmsg)⟩

end Sys2Proof.Machine
